-- ==== Sys2Proof/Word.lean ====
section
/-! DEFINITION. The word, byte and bit-sequence types of CANDEC. -/

namespace Sys2Proof

/-- A register or a bus transfer: 32 bits (00_scope.md R6, 10_state.md R21). -/
abbrev Word := BitVec 32

/-- One byte lane of a word (20_memory.md R73). -/
abbrev Byte := BitVec 8

/-- A bit sequence in the order the bits are sent (00_scope.md R8). -/
abbrev Bits := List Bool

end Sys2Proof
end

