-- ==== Sys2Proof/Config.lean ====
section
/-! DEFINITION. What an implementation fixes (00_scope.md R6), and the free values: constants with no body, which no
proof can evaluate, for what the spec leaves open. -/

namespace Sys2Proof

/-- The implementation parameter of R6 that changes what the block does. It is a field of State, so that a statement
holds for every capacity (DESIGN CHOICE, log entry 1). -/
structure Config where
  /-- `MAX_BITS`: the capacity of BITBUF and of OUTBUF in bits. -/
  maxBits : Nat
  deriving DecidableEq, Repr

/-- The spec's default, `MAX_BITS` = 256 (R6). -/
def Config.default : Config := { maxBits := 256 }

/-- `N_FRAME`: the window width of the frame decoders, fixed at 5 (R6, 41_frame_decoder.md R140). -/
def Config.frameWindow : Nat := 5

/-- Free value: what the buffer byte at a port address holds after the reset that draws number `draw`
(10_state.md R40, 70_reset_and_hazards.md R263; log entries 2 and 3). -/
opaque Config.freeBufferByte : (draw addr : Nat) → Byte

/-- Free value: how many inputs come before the completion of the command whose start draws number `draw`
(`LATENCY`, 00_scope.md R6; 60_exceptions.md R239(b); log entry 4). -/
opaque Config.freeDelay : (draw : Nat) → Nat

/-- Free value: what a read returns while reset is asserted (70_reset_and_hazards.md R261; log entry 7). -/
opaque Config.freeReadInReset : (draw : Nat) → Word

/-- Free value: `CANDEC_BASE`, the system address of port offset 0 (20_memory.md R75; log entry 13). -/
opaque Config.candecBase : Nat

end Sys2Proof
end

