-- ==== Sys2Proof/Syntax.lean ====
section
/-! DEFINITION. The nine commands (30_encoding.md R92). A command has no operand of its own: it reads and writes the
fixed registers of R93 (R91). -/

namespace Sys2Proof

/-- One constructor per row of spec/opcode_table.json. -/
inductive Instr where
  /-- Destuff BITBUF[0..LEN) with window NWIN into OUTBUF (40_destuffer.md R120). -/
  | unstuff
  /-- Decode a base frame from unstuffed bits (41_frame_decoder.md R152). -/
  | decodeBaseU
  /-- Destuff with n = 5, then decode a base frame (41_frame_decoder.md R153). -/
  | decodeBaseS
  /-- Decode an extended frame from unstuffed bits (41_frame_decoder.md R154). -/
  | decodeExtU
  /-- Destuff with n = 5, then decode an extended frame (41_frame_decoder.md R155). -/
  | decodeExtS
  /-- CANID to CANDBID (42_identifier.md R192). -/
  | idToDbid
  /-- CANDBID to CANID (42_identifier.md R193). -/
  | dbidToId
  /-- CANID to J1939 priority, PGN, source address and PDU (42_identifier.md R198). -/
  | j1939Decode
  /-- J1939 fields to CANID Extended (42_identifier.md R199). -/
  | j1939Encode
  deriving DecidableEq, Repr

end Sys2Proof
end

