-- ==== Sys2Proof/WellFormed.lean ====
section
/-! DEFINITION. Well-formed commands and configurations. -/

namespace Sys2Proof

/-- The spec puts no condition on a command: no field of a command word is an operand, a mode or an immediate
(30_encoding.md R90, R91), so each of the nine is well formed. The range of an operand register is a matter of running
the command (60_exceptions.md R232), not of its form. -/
def Instr.wf (i : Instr) : Bool :=
  match i with
  | .unstuff => true
  | .decodeBaseU => true
  | .decodeBaseS => true
  | .decodeExtU => true
  | .decodeExtS => true
  | .idToDbid => true
  | .dbidToId => true
  | .j1939Decode => true
  | .j1939Encode => true

/-- `MAX_BITS` is a multiple of 32 from 32 to 2048 (00_scope.md R6). -/
def Config.wf (c : Config) : Bool :=
  c.maxBits % 32 == 0 && decide (32 ≤ c.maxBits) && decide (c.maxBits ≤ 2048)

end Sys2Proof
end

