-- ==== Sys2Proof/Decode.lean ====
section
/-! DEFINITION. The command decoder and encoder (30_encoding.md R90, R92, R94). -/

namespace Sys2Proof

/-- Why a word or a sequence of bytes is no command. -/
inductive DecodeReject where
  /-- The word is none of the nine codes (R94); the engine completes it with ILLEGAL_OP (60_exceptions.md R231). -/
  | illegalCode (w : Word)
  /-- Fewer than the four bytes of a command word: no such write exists on the port (20_memory.md R74). -/
  | tooShort
  deriving DecidableEq, Repr

/-- A row of the opcode table: the command a word stands for when `word &&& mask = code`. -/
structure OpcodeRow where
  mask : Word
  code : Word
  instr : Instr
  deriving DecidableEq, Repr

/-- The opcode map of R92; R90 fixes the mask. -/
def opcodeTable : List OpcodeRow := [
  ⟨0xFFFFFFFF, 0x00000001, .unstuff⟩,
  ⟨0xFFFFFFFF, 0x00000002, .decodeBaseU⟩,
  ⟨0xFFFFFFFF, 0x00000003, .decodeBaseS⟩,
  ⟨0xFFFFFFFF, 0x00000004, .decodeExtU⟩,
  ⟨0xFFFFFFFF, 0x00000005, .decodeExtS⟩,
  ⟨0xFFFFFFFF, 0x00000006, .idToDbid⟩,
  ⟨0xFFFFFFFF, 0x00000007, .dbidToId⟩,
  ⟨0xFFFFFFFF, 0x00000008, .j1939Decode⟩,
  ⟨0xFFFFFFFF, 0x00000009, .j1939Encode⟩]

/-- The command a command word selects, "by `v == code`, with mask 0xFFFFFFFF" (R90). -/
def decode (w : Word) : Except DecodeReject Instr :=
  match opcodeTable.find? (fun r => (w &&& r.mask) == r.code) with
  | some r => .ok r.instr
  | none => .error (.illegalCode w)

/-- The command word whose four byte lanes are given, lowest address first (20_memory.md R73). -/
def commandWord (b0 b1 b2 b3 : Byte) : Word := b3 ++ b2 ++ b1 ++ b0

/-- The same decoder over the bytes of a command word, with the bytes that follow it. -/
def decodeBytes (bytes : List Byte) : Except DecodeReject (Instr × List Byte) :=
  match bytes with
  | b0 :: b1 :: b2 :: b3 :: rest =>
    match decode (commandWord b0 b1 b2 b3) with
    | .ok i => .ok (i, rest)
    | .error e => .error e
  | _ => .error .tooShort

/-- The command word of a command (R92). -/
def encode (i : Instr) : Word :=
  match i with
  | .unstuff => 0x00000001
  | .decodeBaseU => 0x00000002
  | .decodeBaseS => 0x00000003
  | .decodeExtU => 0x00000004
  | .decodeExtS => 0x00000005
  | .idToDbid => 0x00000006
  | .dbidToId => 0x00000007
  | .j1939Decode => 0x00000008
  | .j1939Encode => 0x00000009

/-- The four bytes of a command word on the port's lanes, lowest address first (20_memory.md R73). -/
def commandBytes (w : Word) : List Byte :=
  [w.extractLsb' 0 8, w.extractLsb' 8 8, w.extractLsb' 16 8, w.extractLsb' 24 8]

/-- The command word of which the opcode table gives `nbits` bits, the bits above them zero; none where the instruction
would be wider than a command word. -/
def tableWord (nbits w : Nat) : Option Word :=
  if w % 2 ^ nbits < 2 ^ 32 then some (BitVec.ofNat 32 (w % 2 ^ nbits)) else none

/-- The command the decoder reads from an opcode-table row's bits. -/
def decodeTableWord (nbits w : Nat) : Option Instr :=
  match tableWord nbits w with
  | none => none
  | some v =>
    match decodeBytes (commandBytes v) with
    | .ok (i, _) => some i
    | .error _ => none

end Sys2Proof
end

