-- ==== Sys2Proof/Machine/State.lean ====
section
/-! DEFINITION. The state of CANDEC as plain data (10_state.md R20), the reasons a step can stop, and the state after
reset (70_reset_and_hazards.md R262). Registers are held as their named fields: a reserved bit holds nothing (R21). -/

namespace Sys2Proof.Machine

/-- The error kinds of a failing command (60_exceptions.md R230); NONE, the success code, is no error. -/
inductive ErrorKind where
  | illegalOp | operandRange | conversion
  | sofMissing | idMissing | idaMissing | srrMissing | ideMissing | idbMissing | rtrMissing | r1Missing | r0Missing
  | dlcMissing | dataMissing | crcMissing | crcdelMissing | ackslotMissing | ackdelMissing | eofMissing | ifsMissing
  | sofMustBeZero | ideMustBeZero | ideMustBeOne | srrMustBeOne | crcdelMustBeOne | ackdelMustBeOne
  | eofMustBeOnes | ifsMustBeOnes
  deriving DecidableEq, Repr

/-- What `raise E(pos)` carries (00_scope.md R11): the kind and the position. -/
structure CmdError where
  kind : ErrorKind
  pos : Nat
  deriving DecidableEq, Repr

/-- The variant tag of an identifier: KIND = 0 Standard, 1 Extended (10_state.md R35, R38). -/
inductive IdKind where
  | standard
  | extended
  deriving DecidableEq, Repr

/-- The class of a J1939 PDU: TYPE = 0 PDU1, 1 PDU2 (10_state.md R39). -/
inductive PduType where
  | pdu1
  | pdu2
  deriving DecidableEq, Repr

/-- The engine phase with the code of the running command (10_state.md R20(3), R45). STATUS.BUSY is this (R27). -/
inductive Phase where
  | idle
  | busy (op : Word)
  deriving DecidableEq, Repr

/-- The J1939 result registers JD_PRIO, JD_PGN, JD_SA and JD_PDU (10_state.md R39). A present DA or GE is `some`:
its valid bit is 1; an absent one reads 0 with valid bit 0 (42_identifier.md R197). -/
structure JdRegs where
  prio : BitVec 3
  pgn : BitVec 18
  sa : Byte
  pduType : PduType
  da : Option Byte
  ge : Option Byte
  deriving DecidableEq, Repr

/-- The frame result registers F_KIND to F_DATA3 (10_state.md R24, R41), each as wide as its named field. -/
structure FrameRegs where
  ext : Bool
  id : BitVec 29
  ida : BitVec 11
  idb : BitVec 18
  bits : BitVec 9
  dlc : BitVec 4
  crc : BitVec 15
  eof : BitVec 7
  ifs : BitVec 3
  fend : BitVec 12
  dlen : BitVec 12
  data0 : Word
  data1 : Word
  data2 : Word
  data3 : Word
  deriving DecidableEq, Repr

/-- The width of a port access: 8, 16 or 32 bits; only the last is accepted (20_memory.md R74). -/
inductive AccessWidth where
  | byte
  | half
  | word
  deriving DecidableEq, Repr

/-- One input of the block, in the order the port receives them (20_memory.md R80, 60_exceptions.md R239). -/
inductive Input where
  /-- A host read at a 12-bit port address. -/
  | read (width : AccessWidth) (addr : BitVec 12)
  /-- A host write at a 12-bit port address. -/
  | write (width : AccessWidth) (addr : BitVec 12) (data : Word)
  /-- The host's `WAIT` loop: reads of STATUS until one returns BUSY = 0 (30_encoding.md R102; log entry 12). -/
  | waitIdle
  /-- The reset line becomes asserted or released (70_reset_and_hazards.md R260). -/
  | reset (asserted : Bool)
  deriving DecidableEq, Repr

/-- The memory of the block: the bytes of BITBUF and OUTBUF by port byte address, little-endian lanes
(20_memory.md R72, R73; log entry 9). -/
abbrev Memory := List Host.Cell

/-- The canonical form: addresses strictly rising. Every buffer byte is listed, and an address that is not listed is no
buffer byte and holds no value, so equal memories are equal lists (log entry 2). -/
abbrev Memory.wf (m : Memory) : Prop := (m.map Prod.fst).Pairwise (· < ·)

/-- Everything 10_state.md R20 gives the block, the reset line, and at the end the model's own fields. -/
structure State where
  /-- CTRL.IE (R25). -/
  ctrlIE : Bool
  /-- PHASE and OP (R45); STATUS.BUSY (R27). -/
  phase : Phase
  /-- STATUS.DONE (R28). -/
  done : Bool
  /-- STATUS.ERR (R29). -/
  err : Bool
  /-- STATUS.WIGN (R30). -/
  wign : Bool
  /-- STATUS.ERRCODE (R29). -/
  errcode : BitVec 8
  /-- ERRPOS.POS (R32). -/
  errpos : BitVec 12
  /-- NWIN (R33). -/
  nwin : Word
  /-- LEN (R34). -/
  len : Word
  /-- OUTLEN (R42). -/
  outlen : BitVec 12
  /-- OPK.KIND (R35). -/
  opk : IdKind
  /-- OPV (R36). -/
  opv : Word
  /-- RESK.KIND (R38). -/
  resk : IdKind
  /-- RESV (R38). -/
  resv : Word
  /-- JE_PRIO (R37). -/
  jePrio : Word
  /-- JE_PGN (R37). -/
  jePgn : Word
  /-- JE_SA (R37). -/
  jeSa : Word
  /-- JD_PRIO, JD_PGN, JD_SA, JD_PDU (R39). -/
  jd : JdRegs
  /-- F_KIND to F_DATA3 (R41). -/
  frame : FrameRegs
  /-- BITBUF and OUTBUF (R40). -/
  mem : Memory
  /-- The reset line is asserted (70_reset_and_hazards.md R260, R261). -/
  inReset : Bool
  /-- MODEL: the implementation parameter MAX_BITS (log entry 1). -/
  cfg : Config
  /-- MODEL: the inputs still to come, oldest first (log entry 5). -/
  inputs : List Input
  /-- MODEL: while BUSY, how many inputs still come before the completion (log entry 4). -/
  delay : Nat
  /-- MODEL: how many free values have been drawn (log entry 4). -/
  draws : Nat
  /-- MODEL: the data of the last read the port answered (log entry 8). -/
  lastRead : Option Word
  deriving DecidableEq, Repr

/-- Why the port refuses an access (20_memory.md R74 (a), (b), (c)). -/
inductive BusErrorReason where
  /-- An 8-bit or 16-bit access. -/
  | width
  /-- A 32-bit access at an address that is not a multiple of 4. -/
  | misaligned
  /-- An aligned 32-bit access at an unmapped offset (R75). -/
  | unmapped
  deriving DecidableEq, Repr

/-- The reasons the machine stops with a fault. -/
inductive Fault where
  /-- Raised by the step that carries out a host access the port answers with a bus error. "A model treats a bus error as
  a fault of the host program" (20_memory.md R74). Safe: the block's state has not changed (log entry 6). -/
  | busError (reason : BusErrorReason)
  deriving DecidableEq, Repr

/-- The reasons an instruction has no meaning. -/
inductive Refusal where
  /-- Raised by exec for an instruction that has no meaning yet; no arm of exec raises it now. Safe. -/
  | notModelled (mnemonic : String)
  deriving DecidableEq, Repr

/-- JD_PRIO to JD_PDU after reset (R262): TYPE, DAV and GEV all 0. -/
def JdRegs.zero : JdRegs := { prio := 0, pgn := 0, sa := 0, pduType := .pdu1, da := none, ge := none }

/-- F_KIND to F_DATA3 after reset (R262). -/
def FrameRegs.zero : FrameRegs :=
  { ext := false, id := 0, ida := 0, idb := 0, bits := 0, dlc := 0, crc := 0, eof := 0, ifs := 0, fend := 0, dlen := 0,
    data0 := 0, data1 := 0, data2 := 0, data3 := 0 }

/-- The port addresses of the bytes of BITBUF, then of OUTBUF (20_memory.md R75). -/
def bufferAddrs (cfg : Config) : List Nat :=
  (List.range (cfg.maxBits / 8)).map (0x100 + ·) ++ (List.range (cfg.maxBits / 8)).map (0x200 + ·)

/-- The buffers after the reset that draws number `draw`: every byte a free value (R263). -/
def Memory.afterReset (cfg : Config) (draw : Nat) : Memory :=
  (bufferAddrs cfg).map fun a => (a, Config.freeBufferByte draw a)

/-- The machine right after power-on reset, for any capacity (70_reset_and_hazards.md R260, R262). -/
def State.resetWith (cfg : Config) : State :=
  { ctrlIE := false, phase := .idle, done := false, err := false, wign := false, errcode := 0, errpos := 0,
    nwin := 5, len := 0, outlen := 0, opk := .standard, opv := 0, resk := .standard, resv := 0,
    jePrio := 0, jePgn := 0, jeSa := 0, jd := JdRegs.zero, frame := FrameRegs.zero,
    mem := Memory.afterReset cfg 0, inReset := false,
    cfg := cfg, inputs := [], delay := 0, draws := 1, lastRead := none }

/-- The machine right after reset, with the spec's default capacity (R6, R262). -/
def State.reset : State := State.resetWith Config.default

end Sys2Proof.Machine
end

