-- ==== Sys2Proof/Machine/Bits.lean ====
section
/-! DEFINITION. Bit sequences, field values and byte lanes (00_scope.md R8, R9; 20_memory.md R72, R73). -/

namespace Sys2Proof.Machine

/-- The value of a field, the first bit sent the most significant (00_scope.md R9). -/
def val (x : Bits) : Nat := x.foldl (fun v b => 2 * v + b.toNat) 0

/-- `fb_w(v)`: the w-bit sequence whose value is v, for v below 2^w (00_scope.md R9). -/
def fieldBits (w v : Nat) : Bits := (List.range w).map fun k => v.testBit (w - 1 - k)

/-- `x[p..p+w)` (00_scope.md R8). -/
def slice (x : Bits) (p w : Nat) : Bits := (x.drop p).take w

/-- Byte lane k of a word: bits [8k+7:8k] (20_memory.md R73). -/
def laneByte (v : Word) (k : Nat) : Byte := v.extractLsb' (8 * k) 8

/-- Word k of a sequence packed into a buffer: its bits 32k to 32k+31 from bit 31 down, 0 beyond its end
(20_memory.md R72; the zeros are 40_destuffer.md R120's). -/
def packWord (x : Bits) (k : Nat) : Word :=
  BitVec.ofNat 32 (val ((List.range 32).map fun j => x.getD (32 * k + j) false))

end Sys2Proof.Machine
end

