-- ==== Sys2Proof/Machine/Flags.lean ====
section
/-! DEFINITION. STATUS and its flags, the error codes, and the interrupt output (10_state.md R25 to R31, R47;
60_exceptions.md R230, R240). -/

namespace Sys2Proof.Machine

/-- The ERRCODE of each error kind (60_exceptions.md R230). NONE is 0x00 and is no kind. -/
def ErrorKind.code (k : ErrorKind) : BitVec 8 :=
  match k with
  | .illegalOp => 0x01
  | .operandRange => 0x02
  | .conversion => 0x03
  | .sofMissing => 0x10
  | .idMissing => 0x11
  | .idaMissing => 0x12
  | .srrMissing => 0x13
  | .ideMissing => 0x14
  | .idbMissing => 0x15
  | .rtrMissing => 0x16
  | .r1Missing => 0x17
  | .r0Missing => 0x18
  | .dlcMissing => 0x19
  | .dataMissing => 0x1A
  | .crcMissing => 0x1B
  | .crcdelMissing => 0x1C
  | .ackslotMissing => 0x1D
  | .ackdelMissing => 0x1E
  | .eofMissing => 0x1F
  | .ifsMissing => 0x20
  | .sofMustBeZero => 0x30
  | .ideMustBeZero => 0x31
  | .ideMustBeOne => 0x32
  | .srrMustBeOne => 0x33
  | .crcdelMustBeOne => 0x34
  | .ackdelMustBeOne => 0x35
  | .eofMustBeOnes => 0x36
  | .ifsMustBeOnes => 0x37

/-- STATUS.BUSY reads 1 exactly when PHASE = BUSY (10_state.md R27). -/
def Phase.isBusy (p : Phase) : Bool :=
  match p with
  | .idle => false
  | .busy _ => true

/-- The bit of an identifier's tag: 0 = Standard, 1 = Extended (10_state.md R35). -/
def IdKind.bit (k : IdKind) : Bool :=
  match k with
  | .standard => false
  | .extended => true

/-- The tag a written KIND bit stands for (10_state.md R35). -/
def IdKind.ofBit (b : Bool) : IdKind := if b then .extended else .standard

/-- JD_PDU.TYPE: 0 for PDU1 and 1 for PDU2 (10_state.md R39). -/
def PduType.bit (t : PduType) : Bool :=
  match t with
  | .pdu1 => false
  | .pdu2 => true

/-- One bit of a register word, at bit `at_`. -/
def bitWord (b : Bool) (at_ : Nat) : Word := (BitVec.ofBool b).setWidth 32 <<< at_

/-- The STATUS word (10_state.md R24): BUSY, DONE, ERR, WIGN, ERRCODE; the other bits are reserved and read 0. -/
def State.statusWord (s : State) : Word :=
  bitWord s.phase.isBusy 0 ||| bitWord s.done 1 ||| bitWord s.err 2 ||| bitWord s.wign 3
    ||| (s.errcode.setWidth 32 <<< 8)

/-- A host write to STATUS while IDLE: DONE and WIGN are cleared by a 1; every other bit is read-only or reserved
(10_state.md R28, R30). This is the host's acknowledgement of a completion, the "return" of 60_exceptions.md R241. -/
def State.ackStatus (s : State) (v : Word) : State :=
  { s with done := s.done && !v.getLsbD 1, wign := s.wign && !v.getLsbD 3 }

/-- The interrupt output, `irq = CTRL.IE & STATUS.DONE` (60_exceptions.md R240). -/
def State.irq (s : State) : Bool := s.ctrlIE && s.done

/-- What a command start does to the flags: DONE, ERR, ERRCODE and ERRPOS are cleared and WIGN is kept
(10_state.md R30, R31). -/
def State.clearOutcome (s : State) : State := { s with done := false, err := false, errcode := 0, errpos := 0 }

end Sys2Proof.Machine
end

