-- ==== Sys2Proof/Machine/Ops.lean ====
section
/-! DEFINITION. The shared operations: the buffer memory, the start and the completion of a command (the spec's "trap
entry"), a write that meets a running command, and the reset event. -/

namespace Sys2Proof.Machine

/-- The first byte address of BITBUF (20_memory.md R72). -/
def bitbufBase : Nat := 0x100

/-- The first byte address of OUTBUF (20_memory.md R72). -/
def outbufBase : Nat := 0x200

/-- The byte a memory holds at an address; none where it lists none. -/
def Memory.byte (m : Memory) (a : Nat) : Option Byte :=
  match m with
  | [] => none
  | c :: rest => if c.1 = a then some c.2 else Memory.byte rest a

/-- The bytes of a memory replaced where `f` gives one. The one operation that changes a memory: it keeps every
address. -/
def Memory.patch (m : Memory) (f : Nat → Option Byte) : Memory := m.map fun c => (c.1, (f c.1).getD c.2)

/-- The byte at an address, 0 where the memory lists none: no state a run reaches lacks a buffer byte (`State.Inv`),
and the port maps no other address (20_memory.md R75). -/
def Memory.byteAt (m : Memory) (a : Nat) : Byte := (m.byte a).getD 0

/-- The 32-bit word at an aligned address, little-endian lanes (20_memory.md R73). -/
def Memory.word (m : Memory) (a : Nat) : Word := m.byteAt (a + 3) ++ m.byteAt (a + 2) ++ m.byteAt (a + 1) ++ m.byteAt a

/-- All 32 bits of the word at an aligned address replaced (20_memory.md R73, R76). -/
def Memory.setWord (m : Memory) (a : Nat) (v : Word) : Memory :=
  m.patch fun b => if a ≤ b ∧ b < a + 4 then some (laneByte v (b - a)) else none

/-- Bit i of the buffer at `base`: bit 31 - (i mod 32) of its word i div 32 (20_memory.md R72). -/
def Memory.bufBit (m : Memory) (base i : Nat) : Bool := (m.word (base + 4 * (i / 32))).getLsbD (31 - i % 32)

/-- Every bit of OUTBUF written: `x` from index 0 on, 0 above (40_destuffer.md R120). -/
def Memory.fillOutbuf (m : Memory) (maxBits : Nat) (x : Bits) : Memory :=
  m.patch fun a =>
    if outbufBase ≤ a ∧ a < outbufBase + maxBits / 8 then
      some (laneByte (packWord x ((a - outbufBase) / 4)) ((a - outbufBase) % 4))
    else none

/-- A command start with code `v` (10_state.md R31), leaving open when it completes. -/
def State.enterBusy (s : State) (v : Word) : State := { s.clearOutcome with phase := .busy v }

/-- A command start: the number of inputs that come before its completion is drawn (60_exceptions.md R239(b);
log entry 4). -/
def State.startCommand (s : State) (v : Word) : State :=
  { s.enterBusy v with delay := Config.freeDelay s.draws, draws := s.draws + 1 }

/-- The status part of a successful completion (60_exceptions.md R236). -/
def State.completeOk (s : State) : State :=
  { s with phase := .idle, done := true, err := false, errcode := 0, errpos := 0 }

/-- A failing completion, which writes STATUS and ERRPOS only (60_exceptions.md R236, R237). -/
def State.completeError (s : State) (e : CmdError) : State :=
  { s with phase := .idle, done := true, err := true, errcode := e.kind.code, errpos := BitVec.ofNat 12 e.pos }

/-- The completion of a command, one atomic step (60_exceptions.md R236): `r` is the state with the command's results
written, or the error it raised. -/
def State.conclude (s : State) (r : Except CmdError State) : Host.Outcome State Fault Refusal :=
  match r with
  | .ok t => .next t.completeOk
  | .error e => .next (s.completeError e)

/-- The completion of a command started with an illegal word: it reads no operand; ERRPOS is the offset of CMD
(60_exceptions.md R231). -/
def State.completeIllegal (s : State) : State := s.completeError { kind := .illegalOp, pos := 0x004 }

/-- A mapped, aligned 32-bit write while BUSY: its only effect is WIGN (10_state.md R23). -/
def State.ignoreWrite (s : State) : State := { s with wign := true }

/-- The reset event (70_reset_and_hazards.md R260): a running command is abandoned, every register takes its reset value
and the buffers take any value (R263; log entry 3). -/
def State.applyReset (s : State) (asserted : Bool) : State :=
  { State.resetWith s.cfg with
    mem := Memory.afterReset s.cfg s.draws, draws := s.draws + 1, inReset := asserted,
    inputs := s.inputs, lastRead := s.lastRead }

end Sys2Proof.Machine
end

