-- ==== Sys2Proof/Machine/Operands.lean ====
section
/-! DEFINITION. The operands a command reads, with their range checks (60_exceptions.md R232 to R235;
30_encoding.md R91, R98 to R100). -/

namespace Sys2Proof.Machine

/-- A check of a command: `raise kind(pos)` unless `c` holds (00_scope.md R11). -/
def require (c : Bool) (kind : ErrorKind) (pos : Nat) : Except CmdError Unit :=
  if c then .ok () else .error { kind := kind, pos := pos }

/-- The window width of UNSTUFF: NWIN, legal from 1 to 31 (60_exceptions.md R234). -/
def State.windowOperand (s : State) : Except CmdError Nat := do
  require (decide (1 ≤ s.nwin.toNat ∧ s.nwin.toNat ≤ 31)) .operandRange 0x010
  return s.nwin.toNat

/-- The input bits of a command, `BITBUF[0..LEN)`, in index order (20_memory.md R72, R78). -/
def State.inputBits (s : State) : Bits := (List.range s.len.toNat).map (s.mem.bufBit bitbufBase)

/-- The input of a command after the LEN check, which runs before any bit of BITBUF is read (60_exceptions.md R233). -/
def State.bitsOperand (s : State) : Except CmdError Bits := do
  require (decide (s.len.toNat ≤ s.cfg.maxBits)) .operandRange 0x014
  return s.inputBits

/-- A bus identifier (42_identifier.md R190). -/
inductive CanId where
  | standard (v : BitVec 11)
  | extended (v : BitVec 29)
  deriving DecidableEq, Repr

/-- A database identifier (42_identifier.md R191). -/
inductive CanDbId where
  | standard (v : BitVec 11)
  | extended (v : BitVec 32)
  deriving DecidableEq, Repr

/-- The CANID operand (OPK.KIND, OPV): out of range for its kind it fails with OPERAND_RANGE at 0x024 and is not
truncated (42_identifier.md R190). -/
def State.canIdOperand (s : State) : Except CmdError CanId :=
  match s.opk with
  | .standard => do
    require (decide (s.opv.toNat < 2 ^ 11)) .operandRange 0x024
    return .standard (s.opv.setWidth 11)
  | .extended => do
    require (decide (s.opv.toNat < 2 ^ 29)) .operandRange 0x024
    return .extended (s.opv.setWidth 29)

/-- The CANDBID operand (OPK.KIND, OPV): an Extended one is any 32-bit value (42_identifier.md R191). -/
def State.canDbIdOperand (s : State) : Except CmdError CanDbId :=
  match s.opk with
  | .standard => do
    require (decide (s.opv.toNat < 2 ^ 11)) .operandRange 0x024
    return .standard (s.opv.setWidth 11)
  | .extended => .ok (.extended s.opv)

/-- The CANID operand of J1939_DECODE: a Standard one is the conversion error at 0x020, whatever OPV holds; the variant
is checked before the range (42_identifier.md R198, 60_exceptions.md R235, R238). -/
def State.j1939Operand (s : State) : Except CmdError (BitVec 29) := do
  require s.opk.bit .conversion 0x020
  require (decide (s.opv.toNat < 2 ^ 29)) .operandRange 0x024
  return s.opv.setWidth 29

/-- A J1939 identifier: priority, PGN and source address (42_identifier.md R194). -/
structure J1939Id where
  priority : BitVec 3
  pgn : BitVec 18
  sa : Byte
  deriving DecidableEq, Repr

/-- The operands of J1939_ENCODE, checked in register order (42_identifier.md R199). -/
def State.j1939FieldsOperand (s : State) : Except CmdError J1939Id := do
  require (decide (s.jePrio.toNat < 2 ^ 3)) .operandRange 0x030
  require (decide (s.jePgn.toNat < 2 ^ 18)) .operandRange 0x034
  require (decide (s.jeSa.toNat < 2 ^ 8)) .operandRange 0x038
  return { priority := s.jePrio.setWidth 3, pgn := s.jePgn.setWidth 18, sa := s.jeSa.setWidth 8 }

end Sys2Proof.Machine
end

