-- ==== Sys2Proof/Machine/Destuffer.lean ====
section
/-! DEFINITION. The bit destuffer as a shift-register state machine, its run-length form, and the command UNSTUFF
(40_destuffer.md R110 to R114, R120). -/

namespace Sys2Proof.Machine

/-- A bit enters the stuffing window of width n; the oldest leaves a full one (40_destuffer.md R110). -/
def windowPush (n : Nat) (W : Bits) (b : Bool) : Bits := if W.length = n then W.drop 1 ++ [b] else W ++ [b]

/-- The window holds n bits (40_destuffer.md R110). -/
def windowFull (n : Nat) (W : Bits) : Bool := W.length == n

/-- Every bit of the window is 0 or every bit is 1 (40_destuffer.md R110). -/
def windowUniform (W : Bits) : Bool := W.all (· == false) || W.all (· == true)

/-- Index i of an input of length L is one of its last 13 positions (40_destuffer.md R111). -/
def exempt (i L : Nat) : Bool := decide (L ≤ i + 13)

/-- The destuffer's state (W, j, y): window, index of the next input bit, output so far (40_destuffer.md R112). -/
structure Destuffer where
  window : Bits
  index : Nat
  out : Bits
  deriving DecidableEq, Repr

/-- The initial state (empty, 0, []) (40_destuffer.md R112). -/
def Destuffer.init : Destuffer := { window := [], index := 0, out := [] }

/-- Whether the bit at the index is a stuffing bit: tested on the window before the bit enters
(40_destuffer.md R112, 90_conflicts.md C4). -/
def Destuffer.drops (n L : Nat) (d : Destuffer) : Bool :=
  !exempt d.index L && windowFull n d.window && windowUniform d.window

/-- One step of the destuffer on input bit b (40_destuffer.md R112). -/
def Destuffer.step (n L : Nat) (d : Destuffer) (b : Bool) : Destuffer :=
  { window := windowPush n d.window b
    index := d.index + 1
    out := if d.drops n L then d.out else d.out ++ [b] }

/-- `unstuff(x, n)` (40_destuffer.md R113). -/
def unstuff (x : Bits) (n : Nat) : Bits := (x.foldl (Destuffer.step n x.length) Destuffer.init).out

/-- The run-length form's state: the last input bit and the length of the run ending at it, saturating at n; run 0
before the first bit (40_destuffer.md R114). -/
structure RunDestuffer where
  last : Bool
  run : Nat
  index : Nat
  out : Bits
  deriving DecidableEq, Repr

/-- The initial state of the run-length form; `last` is not read before the first bit. -/
def RunDestuffer.init : RunDestuffer := { last := false, run := 0, index := 0, out := [] }

/-- One step of the run-length form (40_destuffer.md R114). -/
def RunDestuffer.step (n L : Nat) (d : RunDestuffer) (b : Bool) : RunDestuffer :=
  { last := b
    run := if 0 < d.index ∧ b = d.last then min (d.run + 1) n else 1
    index := d.index + 1
    out := if !exempt d.index L && decide (n ≤ d.run) then d.out else d.out ++ [b] }

/-- `unstuff(x, n)` by the run-length form, which a realisation may use instead (40_destuffer.md R114). -/
def unstuffByRuns (x : Bits) (n : Nat) : Bits := (x.foldl (RunDestuffer.step n x.length) RunDestuffer.init).out

/-- The results UNSTUFF writes: every bit of OUTBUF, and OUTLEN (40_destuffer.md R120). -/
def State.writeUnstuffed (s : State) (y : Bits) : State :=
  { s with mem := s.mem.fillOutbuf s.cfg.maxBits y, outlen := BitVec.ofNat 12 y.length }

/-- UNSTUFF up to its commit: NWIN, then LEN, then the destuffing, which cannot fail (60_exceptions.md R238). -/
def State.runUnstuff (s : State) : Except CmdError State := do
  let n ← s.windowOperand
  let x ← s.bitsOperand
  return s.writeUnstuffed (unstuff x n)

/-- UNSTUFF (40_destuffer.md R120). -/
def execUnstuff (s : State) : Host.Outcome State Fault Refusal := s.conclude s.runUnstuff

end Sys2Proof.Machine
end

