-- ==== Sys2Proof/Machine/FrameLayout.lean ====
section
/-! DEFINITION. The bit layouts of the two frame formats, with each field's errors, as tables
(30_encoding.md R95, R96; 41_frame_decoder.md R143, R144). -/

namespace Sys2Proof.Machine

/-- The fields of the two frame formats (30_encoding.md R95, R96). `id` is the base frame's identifier, `ida` and `idb`
the extended frame's two halves. -/
inductive Field where
  | sof | id | ida | srr | ide | idb | rtr | r1 | r0 | dlc | data | crc | crcdel | ackslot | ackdel | eof | ifs
  deriving DecidableEq, Repr

/-- The width of a field: a fixed number of bits, or 8 bits for each unit of the DLC (41_frame_decoder.md R145). -/
inductive FieldWidth where
  | bits (w : Nat)
  | dlcBytes
  deriving DecidableEq, Repr

/-- One row of a layout: the field, its width, its missing error, and the constant it must hold with the error of
another value (41_frame_decoder.md R141, R142). -/
structure FieldSpec where
  field : Field
  width : FieldWidth
  missing : ErrorKind
  must : Option (Nat × ErrorKind)
  deriving DecidableEq, Repr

/-- The rows both formats end with, from DLC on. -/
def tailLayout : List FieldSpec := [
  ⟨.dlc, .bits 4, .dlcMissing, none⟩,
  ⟨.data, .dlcBytes, .dataMissing, none⟩,
  ⟨.crc, .bits 15, .crcMissing, none⟩,
  ⟨.crcdel, .bits 1, .crcdelMissing, some (1, .crcdelMustBeOne)⟩,
  ⟨.ackslot, .bits 1, .ackslotMissing, none⟩,
  ⟨.ackdel, .bits 1, .ackdelMissing, some (1, .ackdelMustBeOne)⟩,
  ⟨.eof, .bits 7, .eofMissing, some (0x7F, .eofMustBeOnes)⟩,
  ⟨.ifs, .bits 3, .ifsMissing, some (0x7, .ifsMustBeOnes)⟩]

/-- The base frame (30_encoding.md R95, 41_frame_decoder.md R143). -/
def baseLayout : List FieldSpec := [
  ⟨.sof, .bits 1, .sofMissing, some (0, .sofMustBeZero)⟩,
  ⟨.id, .bits 11, .idMissing, none⟩,
  ⟨.rtr, .bits 1, .rtrMissing, none⟩,
  ⟨.ide, .bits 1, .ideMissing, some (0, .ideMustBeZero)⟩,
  ⟨.r0, .bits 1, .r0Missing, none⟩] ++ tailLayout

/-- The extended frame (30_encoding.md R96, 41_frame_decoder.md R144). -/
def extLayout : List FieldSpec := [
  ⟨.sof, .bits 1, .sofMissing, some (0, .sofMustBeZero)⟩,
  ⟨.ida, .bits 11, .idaMissing, none⟩,
  ⟨.srr, .bits 1, .srrMissing, some (1, .srrMustBeOne)⟩,
  ⟨.ide, .bits 1, .ideMissing, some (1, .ideMustBeOne)⟩,
  ⟨.idb, .bits 18, .idbMissing, none⟩,
  ⟨.rtr, .bits 1, .rtrMissing, none⟩,
  ⟨.r1, .bits 1, .r1Missing, none⟩,
  ⟨.r0, .bits 1, .r0Missing, none⟩] ++ tailLayout

/-- The layout of a frame format: base, or extended where `ext`. -/
def frameLayout (ext : Bool) : List FieldSpec := if ext then extLayout else baseLayout

/-- The fields taken so far, in walk order, each with its bits. -/
abbrev Fields := List (Field × Bits)

/-- The bits of a field; none for a field the frame lacks, whose value is then 0 (10_state.md R41). -/
def Fields.bitsOf (fs : Fields) (f : Field) : Bits :=
  match fs with
  | [] => []
  | p :: rest => if p.1 = f then p.2 else Fields.bitsOf rest f

/-- The value of a field (00_scope.md R9); 0 for a field the frame lacks (10_state.md R41). -/
def Fields.value (fs : Fields) (f : Field) : Nat := val (fs.bitsOf f)

/-- A field's width in bits, given the fields before it (41_frame_decoder.md R145). -/
def FieldSpec.size (spec : FieldSpec) (before : Fields) : Nat :=
  match spec.width with
  | .bits w => w
  | .dlcBytes => 8 * before.value .dlc

end Sys2Proof.Machine
end

