-- ==== Sys2Proof/Machine/FrameDecoder.lean ====
section
/-! DEFINITION. The frame walk, its commit, and the four DECODE commands (41_frame_decoder.md). -/

namespace Sys2Proof.Machine

/-- The field extractor: the next w bits of D at the cursor, or the missing error at the cursor
(41_frame_decoder.md R141). -/
def takeField (D : Bits) (cur w : Nat) (missing : ErrorKind) : Except CmdError Bits :=
  if cur + w ≤ D.length then .ok (slice D cur w) else .error { kind := missing, pos := cur }

/-- The control-bit validator: the field's value must be its constant, if it has one (41_frame_decoder.md R142). -/
def checkConstant (must : Option (Nat × ErrorKind)) (x : Bits) (p : Nat) : Except CmdError Unit :=
  match must with
  | none => .ok ()
  | some (c, kind) => require (val x == c) kind p

/-- The cursor walk: strictly left to right, the missing check of a field before its constant check and both before the
next field; the first failure ends it (41_frame_decoder.md R141 to R145, 60_exceptions.md R238). -/
def walk (D : Bits) (layout : List FieldSpec) (cur : Nat) (acc : Fields) : Except CmdError (Fields × Nat) :=
  match layout with
  | [] => .ok (acc, cur)
  | spec :: rest =>
    match takeField D cur (spec.size acc) spec.missing with
    | .error e => .error e
    | .ok x =>
      match checkConstant spec.must x cur with
      | .error e => .error e
      | .ok _ => walk D rest (cur + spec.size acc) (acc ++ [(spec.field, x)])

/-- Byte k of the payload, 0 from the DLC value on (41_frame_decoder.md R145). -/
def payloadByte (data : Bits) (k : Nat) : Byte :=
  if k < data.length / 8 then BitVec.ofNat 8 (val (slice data (8 * k) 8)) else 0

/-- Payload word j: bytes 4j to 4j + 3 from the top byte down (41_frame_decoder.md R145). -/
def payloadWord (data : Bits) (j : Nat) : Word :=
  payloadByte data (4 * j) ++ payloadByte data (4 * j + 1) ++ payloadByte data (4 * j + 2) ++ payloadByte data (4 * j + 3)

/-- The identifier F_ID shows: a base frame's 11 bits, or `(IDA << 18) | IDB` (41_frame_decoder.md R149, R151). -/
def frameId (ext : Bool) (fs : Fields) : BitVec 29 :=
  if ext then BitVec.ofNat 29 (fs.value .ida <<< 18 ||| fs.value .idb) else BitVec.ofNat 29 (fs.value .id)

/-- F_BITS: the single-bit fields in their places; SRR and R1 are 0 for a base frame (41_frame_decoder.md R149). -/
def frameBits (fs : Fields) : BitVec 9 :=
  BitVec.ofNat 9 (fs.value .sof ||| fs.value .rtr <<< 1 ||| fs.value .ide <<< 2 ||| fs.value .srr <<< 3
    ||| fs.value .r1 <<< 4 ||| fs.value .r0 <<< 5 ||| fs.value .crcdel <<< 6 ||| fs.value .ackslot <<< 7
    ||| fs.value .ackdel <<< 8)

/-- The F_* registers of a successful walk (41_frame_decoder.md R149). -/
def frameRegs (ext : Bool) (D : Bits) (fs : Fields) (fin : Nat) : FrameRegs :=
  { ext := ext
    id := frameId ext fs
    ida := BitVec.ofNat 11 (if ext then fs.value .ida else fs.value .id)
    idb := BitVec.ofNat 18 (if ext then fs.value .idb else 0)
    bits := frameBits fs
    dlc := BitVec.ofNat 4 (fs.value .dlc)
    crc := BitVec.ofNat 15 (fs.value .crc)
    eof := BitVec.ofNat 7 (fs.value .eof)
    ifs := BitVec.ofNat 3 (fs.value .ifs)
    fend := BitVec.ofNat 12 fin
    dlen := BitVec.ofNat 12 D.length
    data0 := payloadWord (fs.bitsOf .data) 0
    data1 := payloadWord (fs.bitsOf .data) 1
    data2 := payloadWord (fs.bitsOf .data) 2
    data3 := payloadWord (fs.bitsOf .data) 3 }

/-- `decode_base(D)`, or `decode_ext(D)` where `ext` (41_frame_decoder.md R143, R144): the F_* registers, or the first
error with its position. -/
def decodeFrame (ext : Bool) (D : Bits) : Except CmdError FrameRegs :=
  match walk D (frameLayout ext) 0 [] with
  | .ok (fs, fin) => .ok (frameRegs ext D fs fin)
  | .error e => .error e

/-- The stream a DECODE command reads: the input bits, destuffed with n = 5 for a stuffed form
(41_frame_decoder.md R140). -/
def decodedStream (stuffed : Bool) (x : Bits) : Bits := if stuffed then unstuff x Config.frameWindow else x

/-- A DECODE command up to its commit: LEN, then the walk (41_frame_decoder.md R140; 60_exceptions.md R238). -/
def State.runDecode (s : State) (ext stuffed : Bool) : Except CmdError State := do
  let x ← s.bitsOperand
  let f ← decodeFrame ext (decodedStream stuffed x)
  return { s with frame := f }

/-- DECODE_BASE_U (41_frame_decoder.md R152). -/
def execDecodeBaseU (s : State) : Host.Outcome State Fault Refusal := s.conclude (s.runDecode false false)

/-- DECODE_BASE_S (41_frame_decoder.md R153). -/
def execDecodeBaseS (s : State) : Host.Outcome State Fault Refusal := s.conclude (s.runDecode false true)

/-- DECODE_EXT_U (41_frame_decoder.md R154). -/
def execDecodeExtU (s : State) : Host.Outcome State Fault Refusal := s.conclude (s.runDecode true false)

/-- DECODE_EXT_S (41_frame_decoder.md R155). -/
def execDecodeExtS (s : State) : Host.Outcome State Fault Refusal := s.conclude (s.runDecode true true)

end Sys2Proof.Machine
end

