-- ==== Sys2Proof/Machine/Identifier.lean ====
section
/-! DEFINITION. The conversions between bus and database identifiers: ID_TO_DBID and DBID_TO_ID
(42_identifier.md R190 to R193). -/

namespace Sys2Proof.Machine

/-- CANID to CANDBID: Standard passes through; Extended widens to 32 bits and sets bit 31 (42_identifier.md R192). -/
def CanId.toDbId (c : CanId) : CanDbId :=
  match c with
  | .standard v => .standard v
  | .extended v => .extended (v.setWidth 32 ||| 0x80000000)

/-- CANDBID to CANID: Standard passes through; Extended masks to the low 29 bits (42_identifier.md R193). -/
def CanDbId.toId (d : CanDbId) : CanId :=
  match d with
  | .standard v => .standard v
  | .extended v => .extended ((v &&& 0x1FFFFFFF).setWidth 29)

/-- A CANID written to RESK and RESV (30_encoding.md R98). -/
def State.writeCanId (s : State) (c : CanId) : State :=
  match c with
  | .standard v => { s with resk := .standard, resv := v.setWidth 32 }
  | .extended v => { s with resk := .extended, resv := v.setWidth 32 }

/-- A CANDBID written to RESK and RESV (30_encoding.md R99). -/
def State.writeCanDbId (s : State) (d : CanDbId) : State :=
  match d with
  | .standard v => { s with resk := .standard, resv := v.setWidth 32 }
  | .extended v => { s with resk := .extended, resv := v }

/-- ID_TO_DBID up to its commit. -/
def State.runIdToDbid (s : State) : Except CmdError State := do
  let c ← s.canIdOperand
  return s.writeCanDbId c.toDbId

/-- DBID_TO_ID up to its commit. -/
def State.runDbidToId (s : State) : Except CmdError State := do
  let d ← s.canDbIdOperand
  return s.writeCanId d.toId

/-- ID_TO_DBID (42_identifier.md R192). -/
def execIdToDbid (s : State) : Host.Outcome State Fault Refusal := s.conclude s.runIdToDbid

/-- DBID_TO_ID (42_identifier.md R193). -/
def execDbidToId (s : State) : Host.Outcome State Fault Refusal := s.conclude s.runDbidToId

end Sys2Proof.Machine
end

