-- ==== Sys2Proof/Machine/J1939.lean ====
section
/-! DEFINITION. The J1939 identifier, PGN and PDU decompositions: J1939_DECODE and J1939_ENCODE
(42_identifier.md R194 to R199). -/

namespace Sys2Proof.Machine

/-- A 29-bit identifier taken apart: priority [28:26], PGN [25:8], source address [7:0] (42_identifier.md R194). -/
def J1939Id.unpack (v : BitVec 29) : J1939Id :=
  { priority := v.extractLsb' 26 3, pgn := v.extractLsb' 8 18, sa := v.extractLsb' 0 8 }

/-- The raw form, `priority<<26 | pgn.raw<<8 | source_address` (42_identifier.md R194). -/
def J1939Id.raw (j : J1939Id) : BitVec 29 :=
  (j.priority.setWidth 29 <<< 26) ||| (j.pgn.setWidth 29 <<< 8) ||| j.sa.setWidth 29

/-- The PGN's reserved bit, stored and never checked (42_identifier.md R195). -/
def pgnReserved (g : BitVec 18) : Bool := g.getLsbD 17

/-- The PGN's data page bit (42_identifier.md R195). -/
def pgnDataPage (g : BitVec 18) : Bool := g.getLsbD 16

/-- The PDU format byte, PGN bits [15:8] (42_identifier.md R195, R196). -/
def pgnFormat (g : BitVec 18) : Byte := g.extractLsb' 8 8

/-- The PDU specific byte, PGN bits [7:0] (42_identifier.md R195, R196). -/
def pgnSpecific (g : BitVec 18) : Byte := g.extractLsb' 0 8

/-- The PDU class: PDU1 for a format below 0xF0, else PDU2 (42_identifier.md R196). -/
def pduTypeOf (format : Byte) : PduType := if format.toNat < 0xF0 then .pdu1 else .pdu2

/-- The destination address, present for PDU1 only (42_identifier.md R197). -/
def destinationAddress (g : BitVec 18) : Option Byte :=
  match pduTypeOf (pgnFormat g) with
  | .pdu1 => some (pgnSpecific g)
  | .pdu2 => none

/-- The group extension, present for PDU2 only (42_identifier.md R197). -/
def groupExtension (g : BitVec 18) : Option Byte :=
  match pduTypeOf (pgnFormat g) with
  | .pdu1 => none
  | .pdu2 => some (pgnSpecific g)

/-- The JD_* registers of an identifier (42_identifier.md R198). -/
def jdRegs (j : J1939Id) : JdRegs :=
  { prio := j.priority, pgn := j.pgn, sa := j.sa, pduType := pduTypeOf (pgnFormat j.pgn),
    da := destinationAddress j.pgn, ge := groupExtension j.pgn }

/-- J1939_DECODE up to its commit: RESK and RESV are not written (42_identifier.md R198). -/
def State.runJ1939Decode (s : State) : Except CmdError State := do
  let v ← s.j1939Operand
  return { s with jd := jdRegs (J1939Id.unpack v) }

/-- J1939_ENCODE up to its commit: the result is a CANID Extended (42_identifier.md R199). -/
def State.runJ1939Encode (s : State) : Except CmdError State := do
  let j ← s.j1939FieldsOperand
  return s.writeCanId (.extended j.raw)

/-- J1939_DECODE (42_identifier.md R198). -/
def execJ1939Decode (s : State) : Host.Outcome State Fault Refusal := s.conclude s.runJ1939Decode

/-- J1939_ENCODE (42_identifier.md R199). -/
def execJ1939Encode (s : State) : Host.Outcome State Fault Refusal := s.conclude s.runJ1939Encode

end Sys2Proof.Machine
end

