-- ==== Sys2Proof/Machine/RegMap.lean ====
section
/-! DEFINITION. The register map of the port and what a read and a write of each target do while IDLE
(10_state.md R21 to R42; 20_memory.md R70 to R78). -/

namespace Sys2Proof.Machine

/-- The registers of the map, the buffer words apart (10_state.md R24). -/
inductive Reg where
  | ctrl | cmd | status | errpos | nwin | len | outlen | opk | opv | resk | resv | jePrio | jePgn | jeSa
  | jdPrio | jdPgn | jdSa | jdPdu
  | fKind | fId | fIda | fIdb | fBits | fDlc | fCrc | fEof | fIfs | fEnd | fDlen | fData0 | fData1 | fData2 | fData3
  deriving DecidableEq, Repr

/-- The byte offset of a register (10_state.md R24). -/
def Reg.offset (r : Reg) : Nat :=
  match r with
  | .ctrl => 0x000
  | .cmd => 0x004
  | .status => 0x008
  | .errpos => 0x00C
  | .nwin => 0x010
  | .len => 0x014
  | .outlen => 0x018
  | .opk => 0x020
  | .opv => 0x024
  | .resk => 0x028
  | .resv => 0x02C
  | .jePrio => 0x030
  | .jePgn => 0x034
  | .jeSa => 0x038
  | .jdPrio => 0x040
  | .jdPgn => 0x044
  | .jdSa => 0x048
  | .jdPdu => 0x04C
  | .fKind => 0x060
  | .fId => 0x064
  | .fIda => 0x068
  | .fIdb => 0x06C
  | .fBits => 0x070
  | .fDlc => 0x074
  | .fCrc => 0x078
  | .fEof => 0x07C
  | .fIfs => 0x080
  | .fEnd => 0x084
  | .fDlen => 0x088
  | .fData0 => 0x090
  | .fData1 => 0x094
  | .fData2 => 0x098
  | .fData3 => 0x09C

/-- Every register of the map. -/
def Reg.all : List Reg := [
  .ctrl, .cmd, .status, .errpos, .nwin, .len, .outlen, .opk, .opv, .resk, .resv, .jePrio, .jePgn, .jeSa,
  .jdPrio, .jdPgn, .jdSa, .jdPdu,
  .fKind, .fId, .fIda, .fIdb, .fBits, .fDlc, .fCrc, .fEof, .fIfs, .fEnd, .fDlen, .fData0, .fData1, .fData2, .fData3]

/-- What a mapped offset names: a register, a BITBUF word or an OUTBUF word (10_state.md R24). -/
inductive Target where
  | reg (r : Reg)
  | bitbuf (k : Nat)
  | outbuf (k : Nat)
  deriving DecidableEq, Repr

/-- What an aligned offset names; none where it is unmapped (20_memory.md R75). -/
def targetAt (cfg : Config) (a : Nat) : Option Target :=
  if bitbufBase ≤ a ∧ a < bitbufBase + cfg.maxBits / 8 then some (.bitbuf ((a - bitbufBase) / 4))
  else if outbufBase ≤ a ∧ a < outbufBase + cfg.maxBits / 8 then some (.outbuf ((a - outbufBase) / 4))
  else (Reg.all.find? fun r => r.offset == a).map Target.reg

/-- The JD_PDU word: TYPE, DAV, GEV, DA, GE; an absent value reads 0 (10_state.md R24, R39). -/
def JdRegs.pduWord (j : JdRegs) : Word :=
  bitWord j.pduType.bit 0 ||| bitWord j.da.isSome 1 ||| bitWord j.ge.isSome 2
    ||| ((j.da.getD 0).setWidth 32 <<< 8) ||| ((j.ge.getD 0).setWidth 32 <<< 16)

/-- What a read of a register returns: its named fields, zero elsewhere; CMD reads 0 (10_state.md R21, R24, R26). -/
def State.readReg (s : State) (r : Reg) : Word :=
  match r with
  | .ctrl => bitWord s.ctrlIE 0
  | .cmd => 0
  | .status => s.statusWord
  | .errpos => s.errpos.setWidth 32
  | .nwin => s.nwin
  | .len => s.len
  | .outlen => s.outlen.setWidth 32
  | .opk => bitWord s.opk.bit 0
  | .opv => s.opv
  | .resk => bitWord s.resk.bit 0
  | .resv => s.resv
  | .jePrio => s.jePrio
  | .jePgn => s.jePgn
  | .jeSa => s.jeSa
  | .jdPrio => s.jd.prio.setWidth 32
  | .jdPgn => s.jd.pgn.setWidth 32
  | .jdSa => s.jd.sa.setWidth 32
  | .jdPdu => s.jd.pduWord
  | .fKind => bitWord s.frame.ext 0
  | .fId => s.frame.id.setWidth 32
  | .fIda => s.frame.ida.setWidth 32
  | .fIdb => s.frame.idb.setWidth 32
  | .fBits => s.frame.bits.setWidth 32
  | .fDlc => s.frame.dlc.setWidth 32
  | .fCrc => s.frame.crc.setWidth 32
  | .fEof => s.frame.eof.setWidth 32
  | .fIfs => s.frame.ifs.setWidth 32
  | .fEnd => s.frame.fend.setWidth 32
  | .fDlen => s.frame.dlen.setWidth 32
  | .fData0 => s.frame.data0
  | .fData1 => s.frame.data1
  | .fData2 => s.frame.data2
  | .fData3 => s.frame.data3

/-- What a 32-bit write to a register does while IDLE: RW fields and values are stored, a CMD write starts a command, a
STATUS write clears, a write to a read-only register is ignored (10_state.md R21, R22, R26, R28, R30). -/
def State.writeReg (s : State) (r : Reg) (v : Word) : State :=
  match r with
  | .ctrl => { s with ctrlIE := v.getLsbD 0 }
  | .cmd => s.startCommand v
  | .status => s.ackStatus v
  | .errpos => s
  | .nwin => { s with nwin := v }
  | .len => { s with len := v }
  | .outlen => s
  | .opk => { s with opk := IdKind.ofBit (v.getLsbD 0) }
  | .opv => { s with opv := v }
  | .resk => s
  | .resv => s
  | .jePrio => { s with jePrio := v }
  | .jePgn => { s with jePgn := v }
  | .jeSa => { s with jeSa := v }
  | .jdPrio => s
  | .jdPgn => s
  | .jdSa => s
  | .jdPdu => s
  | .fKind => s
  | .fId => s
  | .fIda => s
  | .fIdb => s
  | .fBits => s
  | .fDlc => s
  | .fCrc => s
  | .fEof => s
  | .fIfs => s
  | .fEnd => s
  | .fDlen => s
  | .fData0 => s
  | .fData1 => s
  | .fData2 => s
  | .fData3 => s

/-- What a read of a target returns (20_memory.md R72, R76). -/
def State.readTarget (s : State) (t : Target) : Word :=
  match t with
  | .reg r => s.readReg r
  | .bitbuf k => s.mem.word (bitbufBase + 4 * k)
  | .outbuf k => s.mem.word (outbufBase + 4 * k)

/-- What a 32-bit write to a target does while IDLE: a BITBUF word is stored, OUTBUF is read-only
(10_state.md R21, R24, R40). -/
def State.writeTarget (s : State) (t : Target) (v : Word) : State :=
  match t with
  | .reg r => s.writeReg r v
  | .bitbuf k => { s with mem := s.mem.setWord (bitbufBase + 4 * k) v }
  | .outbuf _ => s

end Sys2Proof.Machine
end

