-- ==== Sys2Proof/Machine/Dispatch.lean ====
section
/-! DEFINITION. One arm per command: the completion of the command on the state it runs on (60_exceptions.md R236). -/

namespace Sys2Proof.Machine

def exec (i : Instr) (s : State) : Host.Outcome State Fault Refusal :=
  match i with
  | .unstuff => Sys2Proof.Machine.execUnstuff s
  | .decodeBaseU => Sys2Proof.Machine.execDecodeBaseU s
  | .decodeBaseS => Sys2Proof.Machine.execDecodeBaseS s
  | .decodeExtU => Sys2Proof.Machine.execDecodeExtU s
  | .decodeExtS => Sys2Proof.Machine.execDecodeExtS s
  | .idToDbid => Sys2Proof.Machine.execIdToDbid s
  | .dbidToId => Sys2Proof.Machine.execDbidToId s
  | .j1939Decode => Sys2Proof.Machine.execJ1939Decode s
  | .j1939Encode => Sys2Proof.Machine.execJ1939Encode s

end Sys2Proof.Machine
end

