-- ==== Sys2Proof/Machine/Port.lean ====
section
/-! DEFINITION. The register port and the inputs of the block (20_memory.md R74 to R80; 60_exceptions.md R239;
70_reset_and_hazards.md R260, R261). -/

namespace Sys2Proof.Machine

/-- Which target an access reaches, or why the port refuses it (20_memory.md R74). Where several reasons hold, the first
of width, alignment, map is named (log entry 6). -/
def portTarget (cfg : Config) (width : AccessWidth) (addr : BitVec 12) : Except BusErrorReason Target :=
  match width with
  | .byte => .error .width
  | .half => .error .width
  | .word =>
    if addr.toNat % 4 ≠ 0 then .error .misaligned
    else
      match targetAt cfg addr.toNat with
      | some t => .ok t
      | none => .error .unmapped

/-- What the port answers to a read: the data and, for a refused access, the bus error with data 0
(20_memory.md R74). -/
def State.portRead (s : State) (width : AccessWidth) (addr : BitVec 12) : Word × Option BusErrorReason :=
  match portTarget s.cfg width addr with
  | .ok t => (s.readTarget t, none)
  | .error r => (0, some r)

/-- What the port does on a write: accepted while IDLE, ignored but for WIGN while BUSY, a bus error with no effect where
refused (10_state.md R23, 20_memory.md R74, R77). -/
def State.portWrite (s : State) (width : AccessWidth) (addr : BitVec 12) (v : Word) : State × Option BusErrorReason :=
  match portTarget s.cfg width addr with
  | .ok t => (if s.phase.isBusy then s.ignoreWrite else s.writeTarget t v, none)
  | .error r => (s, some r)

/-- The port carries out one input while reset is not asserted. A read changes no state of the block (20_memory.md R77).
A `WAIT` reads STATUS and stays the next input while it reads BUSY = 1 (30_encoding.md R102). -/
def State.acceptInput (s : State) (e : Input) : Host.Outcome State Fault Refusal :=
  match e with
  | .read width addr =>
    match s.portRead width addr with
    | (v, none) => .next { s with lastRead := some v }
    | (_, some r) => .fault (.busError r)
  | .write width addr v =>
    match s.portWrite width addr v with
    | (t, none) => .next t
    | (_, some r) => .fault (.busError r)
  | .waitIdle =>
    if s.statusWord.getLsbD 0 then .next { s with lastRead := some s.statusWord, inputs := .waitIdle :: s.inputs }
    else .next { s with lastRead := some s.statusWord }
  | .reset asserted => .next (s.applyReset asserted)

/-- A read while reset is asserted returns any value (70_reset_and_hazards.md R261). -/
def State.readInReset (s : State) : State :=
  { s with lastRead := some (Config.freeReadInReset s.draws), draws := s.draws + 1 }

/-- One input while reset is asserted: a read returns any value, a write has no effect (70_reset_and_hazards.md R261);
the reset line can be released (R260). -/
def State.inputInReset (s : State) (e : Input) : State :=
  match e with
  | .read _ _ => s.readInReset
  | .write _ _ _ => s
  | .waitIdle =>
    if (Config.freeReadInReset s.draws).getLsbD 0 then { s.readInReset with inputs := .waitIdle :: s.inputs }
    else s.readInReset
  | .reset asserted => s.applyReset asserted

end Sys2Proof.Machine
end

