-- ==== Sys2Proof/Machine/Step.lean ====
section
/-! DEFINITION. One step of the block: one input of the port or of the reset line, or the completion of the running
command (60_exceptions.md R239; log entries 4 and 5). -/

namespace Sys2Proof.Machine

/-- The completion of the running command, whose code is `op`: one of the nine, or ILLEGAL_OP
(60_exceptions.md R231, R236). -/
def runCommand (op : Word) (s : State) : Host.Outcome State Fault Refusal :=
  match decode op with
  | .ok i => exec i s
  | .error _ => .next s.completeIllegal

/-- One step. While reset is asserted only inputs happen. While BUSY the completion comes next when no input is left
before it; otherwise the next input does. While IDLE the next input happens, and with none pending the block waits. -/
def step (s : State) : Host.Outcome State Fault Refusal :=
  if s.inReset then
    match s.inputs with
    | [] => .next s
    | e :: rest => .next ({ s with inputs := rest }.inputInReset e)
  else
    match s.phase with
    | .idle =>
      match s.inputs with
      | [] => .next s
      | e :: rest => { s with inputs := rest }.acceptInput e
    | .busy op =>
      match s.delay, s.inputs with
      | 0, _ => runCommand op s
      | _ + 1, [] => runCommand op s
      | d + 1, e :: rest => { s with inputs := rest, delay := d }.acceptInput e

/-- `s` with the command word of an opcode-table row started and due to complete, so that the next step decodes and runs
it: what the host's write to CMD does (10_state.md R31), with no input left before the completion (log entry 5). -/
def State.withFetchWord (s : State) (nbits w : Nat) : State :=
  { s.enterBusy (BitVec.ofNat 32 (w % 2 ^ nbits)) with delay := 0, inReset := false }

end Sys2Proof.Machine
end

