-- ==== Sys2Proof/Machine/HostNotation.lean ====
section
/-! DEFINITION. The host-program lines of 30_encoding.md R102 and the inputs each stands for. -/

namespace Sys2Proof.Machine

/-- Where a `W` or `R` line goes: a register name, a buffer word, or an offset (R102). -/
inductive HostPlace where
  | reg (r : Reg)
  | bitbuf (j : Nat)
  | outbuf (j : Nat)
  | offset (a : Nat)
  deriving DecidableEq, Repr

/-- One line of a host program (R102). -/
inductive HostLine where
  | write (p : HostPlace) (value : Word)
  | read (p : HostPlace)
  | run (i : Instr)
  | wait
  | clr
  | bits (k : Nat) (x : Bits)
  deriving DecidableEq, Repr

/-- The port offset of a place (R102). -/
def HostPlace.offsetOf (p : HostPlace) : BitVec 12 :=
  match p with
  | .reg r => BitVec.ofNat 12 r.offset
  | .bitbuf j => BitVec.ofNat 12 (bitbufBase + 4 * j)
  | .outbuf j => BitVec.ofNat 12 (outbufBase + 4 * j)
  | .offset a => BitVec.ofNat 12 a

/-- The accesses a line makes, in order (R102). -/
def HostLine.inputs (l : HostLine) : List Input :=
  match l with
  | .write p v => [.write .word p.offsetOf v]
  | .read p => [.read .word p.offsetOf]
  | .run i => [.write .word (HostPlace.reg .cmd).offsetOf (encode i)]
  | .wait => [.waitIdle]
  | .clr => [.write .word (HostPlace.reg .status).offsetOf 0x0000000A]
  | .bits k x =>
    (List.range ((x.length + 31) / 32)).map (fun j => Input.write .word (HostPlace.bitbuf j).offsetOf (packWord x j))
      ++ [.write .word (HostPlace.reg .len).offsetOf (BitVec.ofNat 32 k)]

/-- The accesses of a host program, one line after another (R102). -/
def hostProgram (ls : List HostLine) : List Input := ls.flatMap HostLine.inputs

/-- The system address of a port offset, `CANDEC_BASE + offset` (R102, 20_memory.md R75). -/
def systemAddress (offset : BitVec 12) : Nat := Config.candecBase + offset.toNat

end Sys2Proof.Machine
end

