-- ==== Sys2Proof/Machine/ReferenceStuffer.lean ====
section
/-! DEFINITION. The reference stuffing function (40_destuffer.md R115). It is no command of the block (00_scope.md R5):
the destuffer's laws are stated through it. -/

namespace Sys2Proof.Machine

/-- The stuffer's state: the window of the last n EMITTED bits, the index of the next input bit, the output so far. -/
structure Stuffer where
  window : Bits
  index : Nat
  out : Bits
  deriving DecidableEq, Repr

/-- The state before the first bit. -/
def Stuffer.init : Stuffer := { window := [], index := 0, out := [] }

/-- The stuffing bit due after the window W: 1 if it contains no 1, else 0 if it contains no 0 (R115, R116). -/
def stuffingBit (n : Nat) (W : Bits) (exempted : Bool) : Option Bool :=
  if windowFull n W && !exempted then
    if !W.contains true then some true else if !W.contains false then some false else none
  else none

/-- One step of the stuffer on input bit b: the bit is emitted, and after it the stuffing bit if one is due; a stuffing
bit enters the window and triggers no test of its own (R115). -/
def Stuffer.step (n L : Nat) (d : Stuffer) (b : Bool) : Stuffer :=
  match stuffingBit n (windowPush n d.window b) (exempt d.index L) with
  | none => { window := windowPush n d.window b, index := d.index + 1, out := d.out ++ [b] }
  | some c =>
    { window := windowPush n (windowPush n d.window b) c, index := d.index + 1, out := d.out ++ [b, c] }

/-- `stuff(x, n)` (R115). -/
def stuff (x : Bits) (n : Nat) : Bits := (x.foldl (Stuffer.step n x.length) Stuffer.init).out

end Sys2Proof.Machine
end

