-- ==== Sys2Proof/Machine/ReferenceFrame.lean ====
section
/-! DEFINITION. Reference frames: the bit sequence of a frame with given fields, by the layout tables of
30_encoding.md R95 and R96, and the F_* registers its decoding must leave (41_frame_decoder.md R149). No command of the
block: the decoders' statements are made through it. -/

namespace Sys2Proof.Machine

/-- The bits of a field of w bits, first bit sent first (00_scope.md R9). -/
def sentBits (w : Nat) (v : BitVec w) : Bits := fieldBits w v.toNat

/-- The bits of the payload bytes, each most significant bit first (41_frame_decoder.md R145). -/
def payloadBits (data : List Byte) : Bits := data.flatMap (sentBits 8)

/-- Payload word j as the registers show it: byte 4j in the top byte, 0 where there is no byte (41_frame_decoder.md R145). -/
def payloadWordOf (data : List Byte) (j : Nat) : Word :=
  data.getD (4 * j) 0 ++ data.getD (4 * j + 1) 0 ++ data.getD (4 * j + 2) 0 ++ data.getD (4 * j + 3) 0

/-- The fields both formats end with: DLC, DATA, CRC, CRCDelim = 1, ACKSlot, ACKDelim = 1, EOF = 0x7F, IFS = 0x7. -/
def tailBits (data : List Byte) (crc : BitVec 15) (ackslot : Bool) : Bits :=
  fieldBits 4 data.length ++ payloadBits data ++ sentBits 15 crc ++ [true, ackslot, true] ++ fieldBits 7 0x7F
    ++ fieldBits 3 0x7

/-- The free fields of a base frame; the DLC is the number of payload bytes, at most 15. -/
structure BaseFrame where
  id : BitVec 11
  rtr : Bool
  r0 : Bool
  data : List Byte
  crc : BitVec 15
  ackslot : Bool
  deriving DecidableEq, Repr

/-- SOF = 0, ID, RTR, IDE = 0, R0, then the tail (30_encoding.md R95). -/
def BaseFrame.bits (f : BaseFrame) : Bits :=
  [false] ++ sentBits 11 f.id ++ [f.rtr, false, f.r0] ++ tailBits f.data f.crc f.ackslot

/-- The F_* registers after decoding the frame from a stream of `dlen` bits (41_frame_decoder.md R149). -/
def BaseFrame.regs (f : BaseFrame) (dlen : Nat) : FrameRegs :=
  { ext := false, id := f.id.setWidth 29, ida := f.id, idb := 0,
    bits := (if f.rtr then 0x002 else 0) ||| (if f.r0 then 0x020 else 0) ||| (if f.ackslot then 0x080 else 0) ||| 0x140,
    dlc := BitVec.ofNat 4 f.data.length, crc := f.crc, eof := 0x7F, ifs := 0x7,
    fend := BitVec.ofNat 12 (47 + 8 * f.data.length), dlen := BitVec.ofNat 12 dlen,
    data0 := payloadWordOf f.data 0, data1 := payloadWordOf f.data 1,
    data2 := payloadWordOf f.data 2, data3 := payloadWordOf f.data 3 }

/-- The free fields of an extended frame. -/
structure ExtFrame where
  ida : BitVec 11
  idb : BitVec 18
  rtr : Bool
  r1 : Bool
  r0 : Bool
  data : List Byte
  crc : BitVec 15
  ackslot : Bool
  deriving DecidableEq, Repr

/-- SOF = 0, IDA, SRR = 1, IDE = 1, IDB, RTR, R1, R0, then the tail (30_encoding.md R96). -/
def ExtFrame.bits (f : ExtFrame) : Bits :=
  [false] ++ sentBits 11 f.ida ++ [true, true] ++ sentBits 18 f.idb ++ [f.rtr, f.r1, f.r0]
    ++ tailBits f.data f.crc f.ackslot

/-- The F_* registers after decoding the frame from a stream of `dlen` bits (41_frame_decoder.md R149, R151). -/
def ExtFrame.regs (f : ExtFrame) (dlen : Nat) : FrameRegs :=
  { ext := true, id := f.ida ++ f.idb, ida := f.ida, idb := f.idb,
    bits := (if f.rtr then 0x002 else 0) ||| (if f.r1 then 0x010 else 0) ||| (if f.r0 then 0x020 else 0)
      ||| (if f.ackslot then 0x080 else 0) ||| 0x14C,
    dlc := BitVec.ofNat 4 f.data.length, crc := f.crc, eof := 0x7F, ifs := 0x7,
    fend := BitVec.ofNat 12 (67 + 8 * f.data.length), dlen := BitVec.ofNat 12 dlen,
    data0 := payloadWordOf f.data 0, data1 := payloadWordOf f.data 1,
    data2 := payloadWordOf f.data 2, data3 := payloadWordOf f.data 3 }

/-- Where a field lies in the decoded stream, with its errors. -/
structure Span where
  first : Nat
  width : Nat
  missing : ErrorKind
  must : Option ErrorKind
  deriving DecidableEq, Repr

/-- The fields both formats end with, from the position of the DLC on, for the DLC value d. -/
def tailSpans (p d : Nat) : List Span := [
  ⟨p, 4, .dlcMissing, none⟩,
  ⟨p + 4, 8 * d, .dataMissing, none⟩,
  ⟨p + 4 + 8 * d, 15, .crcMissing, none⟩,
  ⟨p + 19 + 8 * d, 1, .crcdelMissing, some .crcdelMustBeOne⟩,
  ⟨p + 20 + 8 * d, 1, .ackslotMissing, none⟩,
  ⟨p + 21 + 8 * d, 1, .ackdelMissing, some .ackdelMustBeOne⟩,
  ⟨p + 22 + 8 * d, 7, .eofMissing, some .eofMustBeOnes⟩,
  ⟨p + 29 + 8 * d, 3, .ifsMissing, some .ifsMustBeOnes⟩]

/-- The positions and errors of the base frame's fields (30_encoding.md R95 with 60_exceptions.md R230's ERRPOS column). -/
def baseSpans (d : Nat) : List Span := [
  ⟨0, 1, .sofMissing, some .sofMustBeZero⟩,
  ⟨1, 11, .idMissing, none⟩,
  ⟨12, 1, .rtrMissing, none⟩,
  ⟨13, 1, .ideMissing, some .ideMustBeZero⟩,
  ⟨14, 1, .r0Missing, none⟩] ++ tailSpans 15 d

/-- The positions and errors of the extended frame's fields (30_encoding.md R96 with 60_exceptions.md R230). -/
def extSpans (d : Nat) : List Span := [
  ⟨0, 1, .sofMissing, some .sofMustBeZero⟩,
  ⟨1, 11, .idaMissing, none⟩,
  ⟨12, 1, .srrMissing, some .srrMustBeOne⟩,
  ⟨13, 1, .ideMissing, some .ideMustBeOne⟩,
  ⟨14, 18, .idbMissing, none⟩,
  ⟨32, 1, .rtrMissing, none⟩,
  ⟨33, 1, .r1Missing, none⟩,
  ⟨34, 1, .r0Missing, none⟩] ++ tailSpans 35 d

/-- The positions and errors of a format's fields. -/
def frameSpans (ext : Bool) (d : Nat) : List Span := if ext then extSpans d else baseSpans d

end Sys2Proof.Machine
end

