-- ==== Sys2Proof/Safety.lean ====
section
/-! DEFINITION. The invariant of the block, what every state a run reaches satisfies; and the words claims about a
command's operands and results are made in. -/

namespace Sys2Proof.Machine

/-- The values ERRCODE takes: 0x00 and the codes of the error kinds, "the hardware produces no other value"
(10_state.md R29, 60_exceptions.md R230). -/
abbrev legalErrcode (c : BitVec 8) : Prop :=
  (0x00 ≤ c ∧ c ≤ 0x03) ∨ (0x10 ≤ c ∧ c ≤ 0x20) ∨ (0x30 ≤ c ∧ c ≤ 0x37)

/-- The memory is in its canonical form and lists exactly the buffer bytes (20_memory.md R72, R75). -/
abbrev State.memOk (s : State) : Prop := s.mem.wf ∧ s.mem.map Prod.fst = bufferAddrs s.cfg

/-- The outcome flags agree: while BUSY all are clear (10_state.md R31); ERR is 1 exactly when ERRCODE is not 0x00, which
takes legal values only; ERRPOS is 0 without an error (10_state.md R29, R32; 60_exceptions.md R236). -/
abbrev State.outcomeOk (s : State) : Prop :=
  (s.phase ≠ .idle → s.done = false ∧ s.err = false) ∧
  (s.err = true ↔ s.errcode ≠ 0) ∧ legalErrcode s.errcode ∧ (s.err = false → s.errpos = 0)

/-- JD_* is as after reset, or as a J1939_DECODE leaves it: exactly one of DAV and GEV is 1, as TYPE says
(42_identifier.md R197, 70_reset_and_hazards.md R262). -/
abbrev State.jdOk (s : State) : Prop :=
  s.jd = JdRegs.zero ∨ s.jd = jdRegs { priority := s.jd.prio, pgn := s.jd.pgn, sa := s.jd.sa }

/-- F_ID, F_IDA and F_IDB agree: `(IDA << 18) | IDB` for an extended frame; for a base frame F_ID is the 11-bit
identifier F_IDA shows and F_IDB is 0 (41_frame_decoder.md R149, R151). -/
abbrev FrameRegs.idOk (f : FrameRegs) : Prop :=
  if f.ext then f.id = f.ida ++ f.idb else f.id = f.ida.setWidth 29 ∧ f.idb = 0

/-- F_* is as after reset, or as a successful DECODE leaves it: the identifier registers agree, the constant bits, EOF and
IFS hold their constants (41_frame_decoder.md R149), F_END is the length 30_encoding.md R95 or R96 gives for the DLC and
lies within the decoded stream, and byte 15 of the payload is 0 (R145). -/
abbrev State.frameOk (s : State) : Prop :=
  s.frame = FrameRegs.zero ∨
  (s.frame.idOk ∧
   s.frame.bits &&& 0x14D = (if s.frame.ext then 0x14C else 0x140) ∧ s.frame.eof = 0x7F ∧ s.frame.ifs = 0x7 ∧
   s.frame.fend.toNat = (if s.frame.ext then 67 else 47) + 8 * s.frame.dlc.toNat ∧
   s.frame.fend.toNat ≤ s.frame.dlen.toNat ∧ s.frame.dlen.toNat ≤ s.cfg.maxBits ∧
   s.frame.data3.extractLsb' 0 8 = 0)

/-- The invariant every step keeps. -/
structure State.Inv (s : State) : Prop where
  cfg : s.cfg.wf = true
  mem : s.memOk
  outcome : s.outcomeOk
  outlen : s.outlen.toNat ≤ s.cfg.maxBits
  jd : s.jdOk
  frame : s.frameOk

/-- The named fields of a register, as a mask (10_state.md R24); every other bit is reserved (R21). -/
def Reg.namedBits (r : Reg) : Word :=
  match r with
  | .ctrl => 0x00000001
  | .cmd => 0xFFFFFFFF
  | .status => 0x0000FF0F
  | .errpos => 0x00000FFF
  | .nwin => 0xFFFFFFFF
  | .len => 0xFFFFFFFF
  | .outlen => 0x00000FFF
  | .opk => 0x00000001
  | .opv => 0xFFFFFFFF
  | .resk => 0x00000001
  | .resv => 0xFFFFFFFF
  | .jePrio => 0xFFFFFFFF
  | .jePgn => 0xFFFFFFFF
  | .jeSa => 0xFFFFFFFF
  | .jdPrio => 0x00000007
  | .jdPgn => 0x0003FFFF
  | .jdSa => 0x000000FF
  | .jdPdu => 0x00FFFF07
  | .fKind => 0x00000001
  | .fId => 0x1FFFFFFF
  | .fIda => 0x000007FF
  | .fIdb => 0x0003FFFF
  | .fBits => 0x000001FF
  | .fDlc => 0x0000000F
  | .fCrc => 0x00007FFF
  | .fEof => 0x0000007F
  | .fIfs => 0x00000007
  | .fEnd => 0x00000FFF
  | .fDlen => 0x00000FFF
  | .fData0 => 0xFFFFFFFF
  | .fData1 => 0xFFFFFFFF
  | .fData2 => 0xFFFFFFFF
  | .fData3 => 0xFFFFFFFF

/-- The registers a host write stores in, whole or by their named fields: kinds "RW field" and "RW value"
(10_state.md R21, R24). -/
def Reg.rw : List Reg := [.ctrl, .nwin, .len, .opk, .opv, .jePrio, .jePgn, .jeSa]

/-- The registers of kind RO (10_state.md R21, R24). -/
def Reg.ro : List Reg := [
  .errpos, .outlen, .resk, .resv, .jdPrio, .jdPgn, .jdSa, .jdPdu,
  .fKind, .fId, .fIda, .fIdb, .fBits, .fDlc, .fCrc, .fEof, .fIfs, .fEnd, .fDlen, .fData0, .fData1, .fData2, .fData3]

/-- Whether the destuffer drops index j of x: not one of the last 13 positions, and the n input bits before it are equal
(40_destuffer.md R111, R112). -/
def droppedAt (x : Bits) (n j : Nat) : Bool :=
  decide (j + 13 < x.length) && decide (n ≤ j) &&
    ((slice x (j - n) n).all (· == false) || (slice x (j - n) n).all (· == true))

/-- Two states give a command the same operands: those of its row of 30_encoding.md R93, and the same MAX_BITS. -/
def SameOperands (i : Instr) (s s' : State) : Prop :=
  match i with
  | .unstuff => s.cfg = s'.cfg ∧ s.nwin = s'.nwin ∧ s.len = s'.len ∧ s.inputBits = s'.inputBits
  | .decodeBaseU => s.cfg = s'.cfg ∧ s.len = s'.len ∧ s.inputBits = s'.inputBits
  | .decodeBaseS => s.cfg = s'.cfg ∧ s.len = s'.len ∧ s.inputBits = s'.inputBits
  | .decodeExtU => s.cfg = s'.cfg ∧ s.len = s'.len ∧ s.inputBits = s'.inputBits
  | .decodeExtS => s.cfg = s'.cfg ∧ s.len = s'.len ∧ s.inputBits = s'.inputBits
  | .idToDbid => s.opk = s'.opk ∧ s.opv = s'.opv
  | .dbidToId => s.opk = s'.opk ∧ s.opv = s'.opv
  | .j1939Decode => s.opk = s'.opk ∧ s.opv = s'.opv
  | .j1939Encode => s.jePrio = s'.jePrio ∧ s.jePgn = s'.jePgn ∧ s.jeSa = s'.jeSa

/-- Two states hold the same results of a command: those of its row of 30_encoding.md R93. -/
def SameResults (i : Instr) (t t' : State) : Prop :=
  match i with
  | .unstuff => t.outlen = t'.outlen ∧ ∀ k, k < t.cfg.maxBits → t.mem.bufBit outbufBase k = t'.mem.bufBit outbufBase k
  | .decodeBaseU => t.frame = t'.frame
  | .decodeBaseS => t.frame = t'.frame
  | .decodeExtU => t.frame = t'.frame
  | .decodeExtS => t.frame = t'.frame
  | .idToDbid => t.resk = t'.resk ∧ t.resv = t'.resv
  | .dbidToId => t.resk = t'.resk ∧ t.resv = t'.resv
  | .j1939Decode => t.jd = t'.jd
  | .j1939Encode => t.resk = t'.resk ∧ t.resv = t'.resv

/-- An input that neither the port refuses nor the reset line is. -/
def Input.accepted (cfg : Config) (e : Input) : Prop :=
  match e with
  | .read width addr => ∃ t, portTarget cfg width addr = .ok t
  | .write width addr _ => ∃ t, portTarget cfg width addr = .ok t
  | .waitIdle => True
  | .reset _ => False

/-- A step is safe when it does not stop: it is no fault and no refusal. -/
def SafeStep (s : State) : Prop := ∃ t, step s = .next t

end Sys2Proof.Machine
end

