-- ==== Sys2Proof/Certificates/Slice0/Obligations.lean ====
section
/-! DEFINITION. The statements for the provers. Each docstring names the rule of spec/ it formalises. -/

open Sys2Proof Sys2Proof.Machine

/-! ### Encoding -/

/-- 30_encoding.md R92's table, word by word. -/
def Obligations.OpcodeWordsDecode : Prop :=
  decode 0x00000001 = .ok .unstuff ∧ decode 0x00000002 = .ok .decodeBaseU ∧ decode 0x00000003 = .ok .decodeBaseS ∧
  decode 0x00000004 = .ok .decodeExtU ∧ decode 0x00000005 = .ok .decodeExtS ∧ decode 0x00000006 = .ok .idToDbid ∧
  decode 0x00000007 = .ok .dbidToId ∧ decode 0x00000008 = .ok .j1939Decode ∧ decode 0x00000009 = .ok .j1939Encode ∧
  decode 0x0000000A = .error (.illegalCode 0x0000000A) ∧ decode 0x80000001 = .error (.illegalCode 0x80000001)

/-- 30_encoding.md R90, R92, R94: over all 2^32 words and whatever bytes follow, a word decodes to a command exactly
when it is that command's word, and every word but 1 to 9 is rejected by name. -/
def Obligations.DecodeAndEncodeAgree : Prop :=
  (∀ (w : Word) (i : Instr), decode w = .ok i ↔ w = encode i) ∧
  (∀ w : Word, decode w = .error (.illegalCode w) ↔ (w = 0 ∨ 9 < w.toNat)) ∧
  (∀ (i : Instr) (rest : List Byte), i.wf = true → decodeBytes (commandBytes (encode i) ++ rest) = .ok (i, rest)) ∧
  (∀ w : Word, commandWord (w.extractLsb' 0 8) (w.extractLsb' 8 8) (w.extractLsb' 16 8) (w.extractLsb' 24 8) = w)

/-! ### Starting, running and completing a command -/

/-- 10_state.md R31. How many inputs come before the completion is a free value (the model's `delay`, log entry 4): the
statement says nothing of it. Until then a write changes WIGN only; the command runs on the state as it stands. -/
def Obligations.CmdWriteStartsTheCommand : Prop :=
  ∀ (s : State) (v : Word) (rest : List Input),
    s.inReset = false → s.phase = .idle → s.inputs = .write .word 0x004 v :: rest →
    ∃ d, step s = .next { s with
        inputs := rest, phase := .busy v, done := false, err := false, errcode := 0, errpos := 0,
        delay := d, draws := s.draws + 1 } ∧
      ∀ b : State, b.inReset = false → b.phase = .busy v →
        (b.delay = 0 → step b = runCommand v b) ∧
        ∀ (addr : BitVec 12) (x : Word) (target : Target) (n : Nat) (later : List Input),
          b.delay = n + 1 → portTarget b.cfg .word addr = .ok target → b.inputs = .write .word addr x :: later →
          step b = .next { b with inputs := later, delay := n, wign := true }

/-- A step runs the decoded command (10_state.md R45, R46; 60_exceptions.md R236): when the completion comes next and the
running code decodes to i, the step is i's meaning on that very state. That the completion comes next when no input is
pending is the model's choice (log entry 4), and so is what a placed command word does (log entry 5). -/
def Obligations.StepRunsTheDecodedCommand : Prop :=
  (∀ (s : State) (op : Word) (i : Instr),
    s.inReset = false → s.phase = .busy op → (s.delay = 0 ∨ s.inputs = []) → decode op = .ok i → step s = exec i s) ∧
  (∀ (s : State) (i : Instr),
    step (s.withFetchWord 32 (encode i).toNat) = exec i (s.withFetchWord 32 (encode i).toNat))

/-- 60_exceptions.md R231: the completion of an illegal word. -/
def Obligations.IllegalWordCompletesWithIllegalOp : Prop :=
  ∀ (s : State) (op : Word),
    s.inReset = false → s.phase = .busy op → s.delay = 0 → (op = 0 ∨ 9 < op.toNat) →
    step s = .next { s with phase := .idle, done := true, err := true, errcode := 0x01, errpos := 0x004 }

/-- 60_exceptions.md R236: every command ends in exactly one completion: BUSY 0, DONE 1, WIGN kept, and either no error,
or an error with nothing but STATUS and ERRPOS written. -/
def Obligations.EveryCommandCompletes : Prop :=
  ∀ (i : Instr) (s : State), ∃ t, exec i s = .next t ∧
    t.phase = .idle ∧ t.done = true ∧ t.wign = s.wign ∧
    ((t.err = false ∧ t.errcode = 0 ∧ t.errpos = 0) ∨
     (∃ (k : ErrorKind) (p : BitVec 12),
       t = { s with phase := .idle, done := true, err := true, errcode := k.code, errpos := p }))

/-- What STATUS reads after a completion (10_state.md R24, 92_eei_decisions.md D20): 0x2, or the code in bits 15 to 8
with 0x6; and 0x8 more where WIGN was set. -/
def Obligations.StatusWordAfterACompletion : Prop :=
  ∀ (i : Instr) (s t : State), exec i s = .next t →
    t.readReg .status =
      (if t.err then (t.errcode.setWidth 32 <<< 8) ||| 0x6 else 0x2) ||| (if s.wign then 0x8 else 0)

/-- 30_encoding.md R93, what a command writes: its row's results and the outcome, nothing else, and no byte of memory
but UNSTUFF's OUTBUF; on failure the outcome only. -/
def Obligations.CommandsWriteOnlyTheirRow : Prop :=
  ∀ (i : Instr) (s t : State), exec i s = .next t →
    (t.err = true →
      t = { s with phase := t.phase, done := t.done, err := t.err, errcode := t.errcode, errpos := t.errpos }) ∧
    (match i with
      | .unstuff =>
        t = { s with
          phase := t.phase, done := t.done, err := t.err, errcode := t.errcode, errpos := t.errpos,
          mem := t.mem, outlen := t.outlen } ∧
        ∀ a, ¬ (0x200 ≤ a ∧ a < 0x200 + s.cfg.maxBits / 8) → t.mem.byte a = s.mem.byte a
      | .decodeBaseU | .decodeBaseS | .decodeExtU | .decodeExtS =>
        t = { s with
          phase := t.phase, done := t.done, err := t.err, errcode := t.errcode, errpos := t.errpos, frame := t.frame } ∧
        ∀ a, t.mem.byte a = s.mem.byte a
      | .idToDbid | .dbidToId | .j1939Encode =>
        t = { s with
          phase := t.phase, done := t.done, err := t.err, errcode := t.errcode, errpos := t.errpos,
          resk := t.resk, resv := t.resv } ∧
        ∀ a, t.mem.byte a = s.mem.byte a
      | .j1939Decode =>
        t = { s with
          phase := t.phase, done := t.done, err := t.err, errcode := t.errcode, errpos := t.errpos, jd := t.jd } ∧
        ∀ a, t.mem.byte a = s.mem.byte a)

/-- 30_encoding.md R93 and 20_memory.md R78, what a command reads: two states with the operands of its row in common,
the BITBUF bits below LEN only, end with the same outcome and, without an error, the same results. -/
def Obligations.CommandsReadOnlyTheirRow : Prop :=
  ∀ (i : Instr) (s s' t t' : State),
    s.Inv → s'.Inv → SameOperands i s s' → exec i s = .next t → exec i s' = .next t' →
    t.err = t'.err ∧ t.errcode = t'.errcode ∧ t.errpos = t'.errpos ∧ (t.err = false → SameResults i t t')

/-- 20_memory.md R83, R80(c), 10_state.md R23 and 70_reset_and_hazards.md R273 (the spec's own inference): from the start
on, whatever accepted accesses come before the completion, the command completes, and its outcome and results are those
of the operands as they stood: only WIGN, the read data and the model's own bookkeeping can differ. The bound of
delay + 1 steps is the model's: `delay` is its free count of inputs before the completion (log entry 4). -/
def Obligations.CommandRunsOnItsStartOperands : Prop :=
  ∀ (s : State) (op : Word),
    s.inReset = false → s.phase = .busy op → (∀ e ∈ s.inputs, e.accepted s.cfg) →
    ∃ (k : Nat) (t u : State),
      1 ≤ k ∧ k ≤ s.delay + 1 ∧ core.run k s = .next t ∧ t.phase = .idle ∧ t.done = true ∧
      runCommand op s = .next u ∧
      t = { u with wign := t.wign, inputs := t.inputs, delay := t.delay, lastRead := t.lastRead }

/-- 60_exceptions.md R232 and R234: when a command fails with OPERAND_RANGE, and where ERRPOS then points. -/
def Obligations.OperandRangeExactly : Prop :=
  ∀ (i : Instr) (s t : State), exec i s = .next t →
    (t.errcode = 0x02 → t.err = true) ∧
    (match i with
      | .unstuff =>
        (t.errcode = 0x02 ↔ s.nwin.toNat = 0 ∨ 31 < s.nwin.toNat ∨ s.cfg.maxBits < s.len.toNat) ∧
        (t.errcode = 0x02 → t.errpos = (if s.nwin.toNat = 0 ∨ 31 < s.nwin.toNat then 0x010 else 0x014))
      | .decodeBaseU | .decodeBaseS | .decodeExtU | .decodeExtS =>
        (t.errcode = 0x02 ↔ s.cfg.maxBits < s.len.toNat) ∧ (t.errcode = 0x02 → t.errpos = 0x014)
      | .idToDbid =>
        (t.errcode = 0x02 ↔ (s.opk = .standard ∧ 2 ^ 11 ≤ s.opv.toNat) ∨ (s.opk = .extended ∧ 2 ^ 29 ≤ s.opv.toNat)) ∧
        (t.errcode = 0x02 → t.errpos = 0x024)
      | .dbidToId =>
        (t.errcode = 0x02 ↔ s.opk = .standard ∧ 2 ^ 11 ≤ s.opv.toNat) ∧ (t.errcode = 0x02 → t.errpos = 0x024)
      | .j1939Decode =>
        (t.errcode = 0x02 ↔ s.opk = .extended ∧ 2 ^ 29 ≤ s.opv.toNat) ∧ (t.errcode = 0x02 → t.errpos = 0x024)
      | .j1939Encode =>
        (t.errcode = 0x02 ↔ 7 < s.jePrio.toNat ∨ 0x3FFFF < s.jePgn.toNat ∨ 0xFF < s.jeSa.toNat) ∧
        (t.errcode = 0x02 →
          t.errpos = (if 7 < s.jePrio.toNat then 0x030 else if 0x3FFFF < s.jePgn.toNat then 0x034 else 0x038)))

/-- 60_exceptions.md R235: J1939_DECODE with a Standard operand, whatever OPV holds; no other command raises
CONVERSION. -/
def Obligations.ConversionOnlyByJ1939Decode : Prop :=
  (∀ s : State, s.opk = .standard →
    exec .j1939Decode s = .next { s with phase := .idle, done := true, err := true, errcode := 0x03, errpos := 0x020 }) ∧
  (∀ (i : Instr) (s t : State), exec i s = .next t → (t.errcode = 0x03 ↔ i = .j1939Decode ∧ s.opk = .standard))

/-! ### The destuffer -/

/-- 00_scope.md R9: a field's value is the weighted sum of its bits, the first bit sent the most significant, and
`fb_w` is the inverse. -/
def Obligations.FieldValueIsMsbFirst : Prop :=
  (∀ x : Bits, val x = ((List.range x.length).map fun k => (x.getD k false).toNat * 2 ^ (x.length - 1 - k)).sum) ∧
  (∀ w v : Nat, v < 2 ^ w → (fieldBits w v).length = w ∧ val (fieldBits w v) = v) ∧
  (∀ x : Bits, fieldBits x.length (val x) = x)

/-- 40_destuffer.md R110: the window holds the last n input bits, never more, the oldest evicted. -/
def Obligations.WindowHoldsTheLastInputBits : Prop :=
  ∀ (x : Bits) (n L : Nat), 1 ≤ n →
    (x.foldl (Destuffer.step n L) Destuffer.init).window = x.drop (x.length - n) ∧
    (x.foldl (Destuffer.step n L) Destuffer.init).window.length ≤ n

/-- 40_destuffer.md R113 (the spec's own inference): the output is the input, in order, without the bits dropped by
the window rule. Every exempt bit and every bit below index n is kept, since `droppedAt` is false there. -/
def Obligations.UnstuffKeepsExactlyTheOtherBits : Prop :=
  ∀ (x : Bits) (n : Nat), 1 ≤ n →
    unstuff x n = (List.range x.length).filterMap (fun j => if droppedAt x n j then none else x[j]?) ∧
    (unstuff x n).length ≤ x.length ∧
    (∀ j, (x.length ≤ j + 13 ∨ j < n) → droppedAt x n j = false)

/-- 40_destuffer.md R114 (the spec's own inference): the run-length form gives the same output, and its run tells
whether the window is full and uniform. -/
def Obligations.RunLengthFormAgrees : Prop :=
  (∀ (x : Bits) (n : Nat), 1 ≤ n → unstuffByRuns x n = unstuff x n) ∧
  (∀ (x : Bits) (n L : Nat), 1 ≤ n →
    (windowFull n (x.foldl (Destuffer.step n L) Destuffer.init).window &&
      windowUniform (x.foldl (Destuffer.step n L) Destuffer.init).window) =
    decide (n ≤ (x.foldl (RunDestuffer.step n L) RunDestuffer.init).run))

/-- 40_destuffer.md R116 (the spec's own inference): a stuffing bit is due exactly when the full window is uniform,
and it is the opposite bit. -/
def Obligations.StuffingBitOnlyAfterAUniformWindow : Prop :=
  ∀ (n : Nat) (W : Bits) (c : Bool), 1 ≤ n →
    (stuffingBit n W false = some c ↔ windowFull n W = true ∧ W.all (· == !c) = true) ∧
    stuffingBit n W true = none

/-- 40_destuffer.md R117 (the spec's own inference): the round trip for every n of at least 2; stuffing keeps the last
13 bits; a sequence with no run of n outside the trailer is not changed; and the failure at n = 1 (vector U17). -/
def Obligations.UnstuffUndoesStuff : Prop :=
  (∀ (n : Nat) (x : Bits), 2 ≤ n → unstuff (stuff x n) n = x) ∧
  (∀ (n : Nat) (x : Bits), 2 ≤ n → 13 ≤ x.length →
    (stuff x n).drop ((stuff x n).length - 13) = x.drop (x.length - 13)) ∧
  (∀ (n : Nat) (x : Bits), 1 ≤ n → (∀ i, i + n + 13 ≤ x.length → windowUniform (slice x i n) = false) →
    stuff x n = x) ∧
  stuff ([false, true] ++ List.replicate 13 false) 1 = [false, true, true, false] ++ List.replicate 13 false ∧
  unstuff ([false, true, true, false] ++ List.replicate 13 false) 1 = List.replicate 14 false

/-- 40_destuffer.md R118 (the spec's own inference): no run of more than n equal bits lies wholly before the last 13
bits of a stuffed sequence; a run of exactly n does occur, followed by the stuffing bit. -/
def Obligations.StuffedRunsAreBounded : Prop :=
  (∀ (n : Nat) (x : Bits) (i : Nat) (c : Bool), 2 ≤ n → i + (n + 1) + 13 ≤ (stuff x n).length →
    ¬ ∀ k, k ≤ n → (stuff x n)[i + k]? = some c) ∧
  stuff (List.replicate 5 false ++ List.replicate 13 true) 5 =
    List.replicate 5 false ++ [true] ++ List.replicate 13 true

/-- 00_scope.md R7 (the spec's own inference): the longest frame the decoders accept, stuffed with n = 5, has at most
230 bits. -/
def Obligations.LongestStuffedFrameHas230Bits : Prop :=
  (∀ f : ExtFrame, f.data.length ≤ 15 → f.bits.length = 67 + 8 * f.data.length ∧ (stuff f.bits 5).length ≤ 230) ∧
  (∀ f : BaseFrame, f.data.length ≤ 15 → f.bits.length = 47 + 8 * f.data.length ∧ (stuff f.bits 5).length ≤ 230) ∧
  230 ≤ Config.default.maxBits

/-- 40_destuffer.md R120: UNSTUFF on legal operands: OUTBUF holds the destuffed bits and zeros above, OUTLEN their
number, and nothing else changes but the outcome. -/
def Obligations.UnstuffWritesTheDestuffedBits : Prop :=
  ∀ s : State, s.Inv → 1 ≤ s.nwin.toNat → s.nwin.toNat ≤ 31 → s.len.toNat ≤ s.cfg.maxBits →
    ∃ t, exec .unstuff s = .next t ∧
      t = { s with
        phase := .idle, done := true, err := false, errcode := 0, errpos := 0, mem := t.mem, outlen := t.outlen } ∧
      t.outlen.toNat = (unstuff s.inputBits s.nwin.toNat).length ∧
      (∀ k, k < s.cfg.maxBits →
        t.mem.bufBit 0x200 k = (unstuff s.inputBits s.nwin.toNat).getD k false) ∧
      (∀ k, k < s.cfg.maxBits → t.mem.bufBit 0x100 k = s.mem.bufBit 0x100 k) ∧
      t.mem.wf

/-- 40_destuffer.md R121 (the spec's own inference): the output length, its lower bound, and the zeros above it. -/
def Obligations.UnstuffOutputLength : Prop :=
  ∀ s t : State, s.Inv → exec .unstuff s = .next t → t.err = false →
    t.outlen.toNat + ((List.range s.len.toNat).filter (droppedAt s.inputBits s.nwin.toNat)).length = s.len.toNat ∧
    min s.len.toNat (s.nwin.toNat + 13) ≤ t.outlen.toNat ∧
    ∀ k, t.outlen.toNat ≤ k → k < s.cfg.maxBits → t.mem.bufBit 0x200 k = false

/-- 40_destuffer.md R120's failures: NWIN is checked before LEN, and a failure writes the outcome only. -/
def Obligations.UnstuffRefusesBadOperands : Prop :=
  ∀ s : State,
    ((s.nwin.toNat = 0 ∨ 31 < s.nwin.toNat) →
      exec .unstuff s =
        .next { s with phase := .idle, done := true, err := true, errcode := 0x02, errpos := 0x010 }) ∧
    (1 ≤ s.nwin.toNat → s.nwin.toNat ≤ 31 → s.cfg.maxBits < s.len.toNat →
      exec .unstuff s =
        .next { s with phase := .idle, done := true, err := true, errcode := 0x02, errpos := 0x014 })

/-! ### The frame decoders -/

/-- 41_frame_decoder.md R143 and R149 with 30_encoding.md R95: DECODE_BASE_U of a base frame, whatever its free fields
and whatever bits follow it, completes and leaves the frame's fields in the F_* registers; nothing else changes but
the outcome. -/
def Obligations.DecodeBaseUReadsABaseFrame : Prop :=
  ∀ (s : State) (f : BaseFrame) (extra : Bits),
    f.data.length ≤ 15 → s.len.toNat ≤ s.cfg.maxBits → s.inputBits = f.bits ++ extra →
    exec .decodeBaseU s = .next { s with
      phase := .idle, done := true, err := false, errcode := 0, errpos := 0, frame := f.regs s.len.toNat }

/-- 41_frame_decoder.md R144 and R149 with 30_encoding.md R96, for DECODE_EXT_U. -/
def Obligations.DecodeExtUReadsAnExtendedFrame : Prop :=
  ∀ (s : State) (f : ExtFrame) (extra : Bits),
    f.data.length ≤ 15 → s.len.toNat ≤ s.cfg.maxBits → s.inputBits = f.bits ++ extra →
    exec .decodeExtU s = .next { s with
      phase := .idle, done := true, err := false, errcode := 0, errpos := 0, frame := f.regs s.len.toNat }

/-- 41_frame_decoder.md R140 and R153: DECODE_BASE_S destuffs with n = 5 first, whatever NWIN holds: a stuffed base
frame, and any input whose destuffing begins with a base frame. -/
def Obligations.DecodeBaseSReadsAStuffedBaseFrame : Prop :=
  (∀ (s : State) (f : BaseFrame),
    f.data.length ≤ 15 → s.len.toNat ≤ s.cfg.maxBits → s.inputBits = stuff f.bits 5 →
    exec .decodeBaseS s = .next { s with
      phase := .idle, done := true, err := false, errcode := 0, errpos := 0, frame := f.regs f.bits.length }) ∧
  (∀ (s : State) (f : BaseFrame) (extra : Bits),
    f.data.length ≤ 15 → s.len.toNat ≤ s.cfg.maxBits → unstuff s.inputBits 5 = f.bits ++ extra →
    exec .decodeBaseS s = .next { s with
      phase := .idle, done := true, err := false, errcode := 0, errpos := 0,
      frame := f.regs (f.bits.length + extra.length) })

/-- 41_frame_decoder.md R140 and R155, for DECODE_EXT_S. -/
def Obligations.DecodeExtSReadsAStuffedExtendedFrame : Prop :=
  (∀ (s : State) (f : ExtFrame),
    f.data.length ≤ 15 → s.len.toNat ≤ s.cfg.maxBits → s.inputBits = stuff f.bits 5 →
    exec .decodeExtS s = .next { s with
      phase := .idle, done := true, err := false, errcode := 0, errpos := 0, frame := f.regs f.bits.length }) ∧
  (∀ (s : State) (f : ExtFrame) (extra : Bits),
    f.data.length ≤ 15 → s.len.toNat ≤ s.cfg.maxBits → unstuff s.inputBits 5 = f.bits ++ extra →
    exec .decodeExtS s = .next { s with
      phase := .idle, done := true, err := false, errcode := 0, errpos := 0,
      frame := f.regs (f.bits.length + extra.length) })

/-- The decoders accept nothing else (41_frame_decoder.md R143, R144, R148): a stream a walk accepts is a frame of the
layout followed by any bits, and the F_* values are that frame's. -/
def Obligations.AcceptedStreamsAreFrames : Prop :=
  (∀ (D : Bits) (r : FrameRegs), decodeFrame false D = .ok r →
    ∃ (f : BaseFrame) (extra : Bits), f.data.length ≤ 15 ∧ D = f.bits ++ extra ∧ r = f.regs D.length) ∧
  (∀ (D : Bits) (r : FrameRegs), decodeFrame true D = .ok r →
    ∃ (f : ExtFrame) (extra : Bits), f.data.length ≤ 15 ∧ D = f.bits ++ extra ∧ r = f.regs D.length)

/-- 41_frame_decoder.md R150: a failing DECODE command writes STATUS and ERRPOS, with the error and position of the
walk, and no F_* register; a LEN above MAX_BITS fails before the walk. -/
def Obligations.FailedDecodeKeepsTheFrameRegisters : Prop :=
  ∀ (s : State) (e : CmdError) (p : Instr × Bool × Bool),
    p ∈ [(Instr.decodeBaseU, false, false), (Instr.decodeBaseS, false, true),
         (Instr.decodeExtU, true, false), (Instr.decodeExtS, true, true)] →
    (s.len.toNat ≤ s.cfg.maxBits → decodeFrame p.2.1 (decodedStream p.2.2 s.inputBits) = .error e →
      exec p.1 s = .next { s with
        phase := .idle, done := true, err := true, errcode := e.kind.code, errpos := BitVec.ofNat 12 e.pos }) ∧
    (s.cfg.maxBits < s.len.toNat →
      exec p.1 s = .next { s with phase := .idle, done := true, err := true, errcode := 0x02, errpos := 0x014 })

/-- 60_exceptions.md R230 and R237(a): every error of a walk is the missing or the must-be error of a field, at the
position the table gives it for the DLC value the stream holds, and the field is missing there or there in full. -/
def Obligations.WalkErrorsAreThoseOfTheTable : Prop :=
  ∀ (ext : Bool) (D : Bits) (e : CmdError), decodeFrame ext D = .error e →
    ∃ sp ∈ frameSpans ext (val (slice D (if ext then 35 else 15) 4)), e.pos = sp.first ∧
      ((e.kind = sp.missing ∧ D.length < sp.first + sp.width) ∨
       (some e.kind = sp.must ∧ sp.first + sp.width ≤ D.length))

/-- 41_frame_decoder.md R157 (the spec's own inference): a prefix of an accepted frame fails with the missing error of
the field it ends before or in, at that field's first bit, as it stands and stuffed afresh; a cut STUFFED frame need
not (vector F7: the first 13 bits of E1c). A data field of no bits cannot be the missing one (R145). -/
def Obligations.TruncatedFramesMissTheCutField : Prop :=
  (∀ (ext : Bool) (D : Bits) (r : FrameRegs) (sp : Span) (k : Nat),
    decodeFrame ext D = .ok r → sp ∈ frameSpans ext r.dlc.toNat → sp.first ≤ k → k < sp.first + sp.width →
    decodeFrame ext (D.take k) = .error { kind := sp.missing, pos := sp.first } ∧
    decodeFrame ext (decodedStream true (stuff (D.take k) 5)) = .error { kind := sp.missing, pos := sp.first }) ∧
  decodeFrame false (decodedStream true
      [false, false, false, false, false, true, false, false, true, false, true, false, false]) =
    .error { kind := .ideMissing, pos := 13 }

/-- 41_frame_decoder.md R158 (the spec's own inference): one bit of a constant field flipped in an accepted frame
gives that field's must-be error at its first bit, as it stands and for any stuffed stream that destuffs to the
flipped frame. -/
def Obligations.FlippedConstantsAreReported : Prop :=
  ∀ (ext : Bool) (D : Bits) (r : FrameRegs) (sp : Span) (kind : ErrorKind) (k : Nat),
    decodeFrame ext D = .ok r → sp ∈ frameSpans ext r.dlc.toNat → sp.must = some kind →
    sp.first ≤ k → k < sp.first + sp.width →
    decodeFrame ext (D.set k (!D.getD k false)) = .error { kind := kind, pos := sp.first } ∧
    ∀ y : Bits, unstuff y 5 = D.set k (!D.getD k false) →
      decodeFrame ext (decodedStream true y) = .error { kind := kind, pos := sp.first }

/-- 41_frame_decoder.md R156 (the spec's own inference) with R150: a DECODE command ends in exactly one outcome, which LEN
and BITBUF[0..LEN) alone decide; on an error the F_* registers keep their values. -/
def Obligations.DecodeOutcomeDependsOnItsInputAlone : Prop :=
  ∀ (i : Instr) (s s' : State),
    i ∈ [Instr.decodeBaseU, Instr.decodeBaseS, Instr.decodeExtU, Instr.decodeExtS] →
    s.cfg = s'.cfg → s.len = s'.len → s.inputBits = s'.inputBits →
    ∃ t t', exec i s = .next t ∧ exec i s' = .next t' ∧
      t.err = t'.err ∧ t.errcode = t'.errcode ∧ t.errpos = t'.errpos ∧
      (t.err = false → t.frame = t'.frame) ∧ (t.err = true → t.frame = s.frame ∧ t'.frame = s'.frame)

/-! ### Identifiers -/

/-- 42_identifier.md R192, its code included. -/
def Obligations.IdToDbidConverts : Prop :=
  decode 0x00000006 = .ok .idToDbid ∧ ∀ s : State,
    (s.opk = .standard → s.opv.toNat < 2 ^ 11 →
      exec .idToDbid s = .next { s with
        phase := .idle, done := true, err := false, errcode := 0, errpos := 0, resk := .standard, resv := s.opv }) ∧
    (s.opk = .extended → s.opv.toNat < 2 ^ 29 →
      exec .idToDbid s = .next { s with
        phase := .idle, done := true, err := false, errcode := 0, errpos := 0,
        resk := .extended, resv := s.opv ||| 0x80000000 }) ∧
    ((s.opk = .standard ∧ 2 ^ 11 ≤ s.opv.toNat) ∨ (s.opk = .extended ∧ 2 ^ 29 ≤ s.opv.toNat) →
      exec .idToDbid s =
        .next { s with phase := .idle, done := true, err := true, errcode := 0x02, errpos := 0x024 })

/-- 42_identifier.md R193, its code included: an Extended operand never fails. -/
def Obligations.DbidToIdConverts : Prop :=
  decode 0x00000007 = .ok .dbidToId ∧ ∀ s : State,
    (s.opk = .standard → s.opv.toNat < 2 ^ 11 →
      exec .dbidToId s = .next { s with
        phase := .idle, done := true, err := false, errcode := 0, errpos := 0, resk := .standard, resv := s.opv }) ∧
    (s.opk = .extended →
      exec .dbidToId s = .next { s with
        phase := .idle, done := true, err := false, errcode := 0, errpos := 0,
        resk := .extended, resv := s.opv &&& 0x1FFFFFFF }) ∧
    (s.opk = .standard → 2 ^ 11 ≤ s.opv.toNat →
      exec .dbidToId s =
        .next { s with phase := .idle, done := true, err := true, errcode := 0x02, errpos := 0x024 })

/-- 42_identifier.md R198, its code included, with R194 to R197, as the JD_* registers read. -/
def Obligations.J1939DecodeSplitsTheIdentifier : Prop :=
  decode 0x00000008 = .ok .j1939Decode ∧ ∀ s : State,
    (s.opk = .extended → s.opv.toNat < 2 ^ 29 →
      ∃ t, exec .j1939Decode s = .next t ∧
        t = { s with phase := .idle, done := true, err := false, errcode := 0, errpos := 0, jd := t.jd } ∧
        t.readReg .jdPrio = s.opv >>> 26 ∧
        t.readReg .jdPgn = (s.opv >>> 8) &&& 0x3FFFF ∧
        t.readReg .jdSa = s.opv &&& 0xFF ∧
        t.readReg .jdPdu =
          if ((s.opv >>> 16) &&& 0xFF).toNat < 0xF0 then 0x2 ||| (((s.opv >>> 8) &&& 0xFF) <<< 8)
          else 0x5 ||| (((s.opv >>> 8) &&& 0xFF) <<< 16)) ∧
    (s.opk = .standard →
      exec .j1939Decode s =
        .next { s with phase := .idle, done := true, err := true, errcode := 0x03, errpos := 0x020 }) ∧
    (s.opk = .extended → 2 ^ 29 ≤ s.opv.toNat →
      exec .j1939Decode s =
        .next { s with phase := .idle, done := true, err := true, errcode := 0x02, errpos := 0x024 })

/-- 42_identifier.md R195 to R197: the PGN's parts, the PDU classes, and exactly one of the destination address and
the group extension is present, with the specific byte as its value. -/
def Obligations.PduClassDecidesDaOrGe : Prop :=
  ∀ g : BitVec 18,
    BitVec.ofBool (pgnReserved g) ++ BitVec.ofBool (pgnDataPage g) ++ pgnFormat g ++ pgnSpecific g = g ∧
    (((g >>> 8) &&& 0xFF).toNat < 0xF0 →
      pduTypeOf (pgnFormat g) = .pdu1 ∧ destinationAddress g = some (g.setWidth 8) ∧ groupExtension g = none) ∧
    (0xF0 ≤ ((g >>> 8) &&& 0xFF).toNat →
      pduTypeOf (pgnFormat g) = .pdu2 ∧ destinationAddress g = none ∧ groupExtension g = some (g.setWidth 8))

/-- 42_identifier.md R199, its code included. -/
def Obligations.J1939EncodePacksTheFields : Prop :=
  decode 0x00000009 = .ok .j1939Encode ∧ ∀ s : State,
    (s.jePrio.toNat < 2 ^ 3 → s.jePgn.toNat < 2 ^ 18 → s.jeSa.toNat < 2 ^ 8 →
      exec .j1939Encode s = .next { s with
        phase := .idle, done := true, err := false, errcode := 0, errpos := 0,
        resk := .extended, resv := (s.jePrio <<< 26) ||| (s.jePgn <<< 8) ||| s.jeSa }) ∧
    (2 ^ 3 ≤ s.jePrio.toNat →
      exec .j1939Encode s =
        .next { s with phase := .idle, done := true, err := true, errcode := 0x02, errpos := 0x030 }) ∧
    (s.jePrio.toNat < 2 ^ 3 → 2 ^ 18 ≤ s.jePgn.toNat →
      exec .j1939Encode s =
        .next { s with phase := .idle, done := true, err := true, errcode := 0x02, errpos := 0x034 }) ∧
    (s.jePrio.toNat < 2 ^ 3 → s.jePgn.toNat < 2 ^ 18 → 2 ^ 8 ≤ s.jeSa.toNat →
      exec .j1939Encode s =
        .next { s with phase := .idle, done := true, err := true, errcode := 0x02, errpos := 0x038 })

/-- 42_identifier.md R200 (the spec's own inference) (a) to (d), command after command, the results moved to the
operands as a host does. -/
def Obligations.IdentifierRoundTrips : Prop :=
  (∀ s t u : State,
    ((s.opk = .standard ∧ s.opv.toNat < 2 ^ 11) ∨ (s.opk = .extended ∧ s.opv.toNat < 2 ^ 29)) →
    exec .idToDbid s = .next t → exec .dbidToId { t with opk := t.resk, opv := t.resv } = .next u →
    u.err = false ∧ u.resk = s.opk ∧ u.resv = s.opv) ∧
  (∀ s t u : State, s.opk = .extended → s.opv.toNat < 2 ^ 29 →
    exec .j1939Decode s = .next t →
    exec .j1939Encode { t with
      jePrio := t.readReg .jdPrio, jePgn := t.readReg .jdPgn, jeSa := t.readReg .jdSa } = .next u →
    u.err = false ∧ u.resk = .extended ∧ u.resv = s.opv) ∧
  (∀ s t u : State, s.jePrio.toNat < 2 ^ 3 → s.jePgn.toNat < 2 ^ 18 → s.jeSa.toNat < 2 ^ 8 →
    exec .j1939Encode s = .next t → exec .j1939Decode { t with opk := t.resk, opv := t.resv } = .next u →
    u.err = false ∧ u.readReg .jdPrio = s.jePrio ∧ u.readReg .jdPgn = s.jePgn ∧ u.readReg .jdSa = s.jeSa) ∧
  (∀ s t : State, s.opk = .standard → exec .j1939Decode s = .next t → t.err = true ∧ t.errcode = 0x03)

/-! ### The register port -/

/-- 10_state.md R21, as the register operations and as steps: reserved bits read 0 and ignore writes; a write to an RW
register stores its named fields and changes nothing else, no other register and no buffer byte; a write to an RO register
or an OUTBUF word changes nothing; CMD reads 0 and a write starts a command; a STATUS write clears DONE and WIGN where it
writes 1 and does nothing else; a BITBUF word stores all 32 bits. The read data of a step is the model's field `lastRead`
(log entry 8). -/
def Obligations.RegisterKinds : Prop :=
  (∀ (s : State) (r : Reg), s.readReg r &&& ~~~ r.namedBits = 0) ∧
  (∀ (s : State) (r : Reg) (v : Word), r ∈ Reg.rw →
    (s.writeReg r v).readReg r = v &&& r.namedBits ∧
    ∀ q : Reg, q ≠ r → (s.writeReg r v).readReg q = s.readReg q) ∧
  (∀ (s : State) (v : Word),
    s.writeReg .ctrl v = { s with ctrlIE := v.getLsbD 0 } ∧
    s.writeReg .nwin v = { s with nwin := v } ∧
    s.writeReg .len v = { s with len := v } ∧
    s.writeReg .opk v = { s with opk := if v.getLsbD 0 then .extended else .standard } ∧
    s.writeReg .opv v = { s with opv := v } ∧
    s.writeReg .jePrio v = { s with jePrio := v } ∧
    s.writeReg .jePgn v = { s with jePgn := v } ∧
    s.writeReg .jeSa v = { s with jeSa := v }) ∧
  (∀ (s : State) (r : Reg) (v : Word), r ∈ Reg.ro → s.writeReg r v = s) ∧
  (∀ s : State, s.readReg .cmd = 0) ∧
  (∀ (s : State) (v : Word), s.writeReg .status v =
    { s with done := s.done && !v.getLsbD 1, wign := s.wign && !v.getLsbD 3 }) ∧
  (∀ (s : State) (v : Word), (s.writeReg .cmd v).phase = .busy v) ∧
  (∀ r : Reg, r = .cmd ∨ r = .status ∨ r ∈ Reg.rw ∨ r ∈ Reg.ro) ∧
  (∀ (s : State) (k : Nat) (v : Word), s.Inv → k < s.cfg.maxBits / 32 →
    (s.writeTarget (.bitbuf k) v).readTarget (.bitbuf k) = v) ∧
  (∀ (s : State) (k : Nat) (v : Word),
    s.writeTarget (.bitbuf k) v = { s with mem := (s.writeTarget (.bitbuf k) v).mem } ∧
    ∀ a, ¬ (0x100 + 4 * k ≤ a ∧ a < 0x100 + 4 * k + 4) → (s.writeTarget (.bitbuf k) v).mem.byte a = s.mem.byte a) ∧
  (∀ (s : State) (k : Nat) (v : Word), s.writeTarget (.outbuf k) v = s) ∧
  (∀ (s : State) (rest : List Input), s.inReset = false → s.phase = .idle →
    (∀ (r : Reg) (v : Word), s.inputs = .write .word (BitVec.ofNat 12 r.offset) v :: rest →
      step s = .next (({ s with inputs := rest } : State).writeReg r v)) ∧
    (∀ (k : Nat) (v : Word), s.cfg.wf = true → k < s.cfg.maxBits / 32 →
      s.inputs = .write .word (BitVec.ofNat 12 (0x100 + 4 * k)) v :: rest →
      step s = .next (({ s with inputs := rest } : State).writeTarget (.bitbuf k) v)) ∧
    (∀ (k : Nat) (v : Word), s.cfg.wf = true → k < s.cfg.maxBits / 32 →
      s.inputs = .write .word (BitVec.ofNat 12 (0x200 + 4 * k)) v :: rest →
      step s = .next { s with inputs := rest }) ∧
    (∀ r : Reg, s.inputs = .read .word (BitVec.ofNat 12 r.offset) :: rest →
      step s = .next { s with inputs := rest, lastRead := some (s.readReg r) }))

/-- 10_state.md R23: while BUSY a mapped write changes WIGN only, CMD, STATUS and CTRL included, and a read returns the
stored value; neither touches the running command. -/
def Obligations.AccessWhileBusy : Prop :=
  ∀ (s : State) (op : Word) (addr : BitVec 12) (t : Target) (d : Nat) (rest : List Input),
    s.inReset = false → s.phase = .busy op → s.delay = d + 1 → portTarget s.cfg .word addr = .ok t →
    (∀ v, s.inputs = .write .word addr v :: rest →
      step s = .next { s with inputs := rest, delay := d, wign := true }) ∧
    (s.inputs = .read .word addr :: rest →
      step s = .next { s with inputs := rest, delay := d, lastRead := some (s.readTarget t) })

/-- 20_memory.md R74: exactly the aligned 32-bit accesses to mapped offsets are accepted; any other is answered with
data 0 and a bus error, changes no state, WIGN included, and is a fault of the host's step. -/
def Obligations.OnlyAlignedWordAccessesAreAccepted : Prop :=
  ∀ (s : State) (width : AccessWidth) (addr : BitVec 12) (v : Word),
    ((width = .word ∧ addr.toNat % 4 = 0 ∧ (targetAt s.cfg addr.toNat).isSome = true) →
      (s.portRead width addr).2 = none ∧ (s.portWrite width addr v).2 = none) ∧
    (¬ (width = .word ∧ addr.toNat % 4 = 0 ∧ (targetAt s.cfg addr.toNat).isSome = true) →
      ∃ reason, s.portRead width addr = (0, some reason) ∧ s.portWrite width addr v = (s, some reason) ∧
        ∀ (e : Input) (rest : List Input),
          (e = .read width addr ∨ e = .write width addr v) → s.inputs = e :: rest → s.inReset = false →
          (s.phase = .idle ∨ s.delay ≠ 0) → step s = .fault (.busError reason))

/-- 20_memory.md R75 and 10_state.md R24: which aligned offsets are mapped and what they name. -/
def Obligations.AddressMap : Prop :=
  ∀ cfg : Config, cfg.wf = true →
    (∀ r : Reg, targetAt cfg r.offset = some (.reg r) ∧ r.offset % 4 = 0) ∧
    (∀ k, k < cfg.maxBits / 32 →
      targetAt cfg (0x100 + 4 * k) = some (.bitbuf k) ∧ targetAt cfg (0x200 + 4 * k) = some (.outbuf k)) ∧
    (∀ a, a < 0x1000 → a % 4 = 0 →
      (targetAt cfg a = none ↔
        a = 0x01C ∨ a = 0x03C ∨ (0x050 ≤ a ∧ a < 0x060) ∨ a = 0x08C ∨ (0x0A0 ≤ a ∧ a < 0x100) ∨
        (0x100 + cfg.maxBits / 8 ≤ a ∧ a < 0x200) ∨ 0x200 + cfg.maxBits / 8 ≤ a))

/-- 20_memory.md R72: the bit mapping of the two buffers, as the port reads their words. -/
def Obligations.BufferBitMapping : Prop :=
  ∀ (s : State) (i : Nat), s.cfg.wf = true → i < s.cfg.maxBits →
    (∃ w, s.portRead .word (BitVec.ofNat 12 (0x100 + 4 * (i / 32))) = (w, none) ∧
      s.mem.bufBit 0x100 i = w.getLsbD (31 - i % 32)) ∧
    (∃ w, s.portRead .word (BitVec.ofNat 12 (0x200 + 4 * (i / 32))) = (w, none) ∧
      s.mem.bufBit 0x200 i = w.getLsbD (31 - i % 32))

/-- 20_memory.md R80(a) and R76 for the buffers: a BITBUF word written while IDLE reads back whole; every other buffer
word and every byte outside the word is unchanged, and the memory keeps its canonical form. -/
def Obligations.BitbufWordReadsBack : Prop :=
  ∀ (s : State) (k : Nat) (v : Word) (rest : List Input),
    s.Inv → s.inReset = false → s.phase = .idle → k < s.cfg.maxBits / 32 →
    s.inputs = .write .word (BitVec.ofNat 12 (0x100 + 4 * k)) v :: rest →
    ∃ t, step s = .next t ∧ t = { s with inputs := rest, mem := t.mem } ∧
      t.portRead .word (BitVec.ofNat 12 (0x100 + 4 * k)) = (v, none) ∧
      (∀ a, ¬ (0x100 + 4 * k ≤ a ∧ a < 0x100 + 4 * k + 4) → t.mem.byte a = s.mem.byte a) ∧
      t.mem.wf ∧ t.mem.map Prod.fst = s.mem.map Prod.fst

/-- 20_memory.md R77: a read changes no state of the block, idle or busy. -/
def Obligations.ReadsHaveNoSideEffect : Prop :=
  ∀ (s t : State) (width : AccessWidth) (addr : BitVec 12) (rest : List Input),
    s.inReset = false → (s.phase = .idle ∨ s.delay ≠ 0) → s.inputs = .read width addr :: rest → step s = .next t →
    t = { s with inputs := rest, delay := t.delay, lastRead := some (s.portRead width addr).1 }

/-- 60_exceptions.md R240: irq is CTRL.IE and STATUS.DONE; a completion, successful or failing, raises it where IE is
1, and nothing else sets DONE; a command start, the STATUS write of DONE and reset lower it; clearing IE masks it and
leaves DONE. -/
def Obligations.InterruptFollowsDone : Prop :=
  (∀ s : State, s.irq = true ↔ s.ctrlIE = true ∧ s.done = true) ∧
  (∀ (op : Word) (s t : State), runCommand op s = .next t → t.done = true ∧ t.irq = s.ctrlIE) ∧
  (∀ s t : State, step s = .next t → s.done = false → t.done = true →
    ∃ op : Word, s.phase = .busy op ∧ runCommand op s = .next t) ∧
  (∀ (s : State) (v : Word), (s.writeReg .cmd v).irq = false) ∧
  (∀ (s : State) (v : Word), v.getLsbD 1 = true → (s.writeReg .status v).irq = false) ∧
  (∀ (s : State) (v : Word), v.getLsbD 0 = false →
    (s.writeReg .ctrl v).irq = false ∧ (s.writeReg .ctrl v).done = s.done) ∧
  (∀ (s : State) (asserted : Bool), (s.applyReset asserted).irq = false)

/-- 60_exceptions.md R241 with 30_encoding.md R102: the host's acknowledgement `CLR` clears DONE and WIGN, lowers irq
and keeps ERR, ERRCODE, ERRPOS and everything else. -/
def Obligations.ClrAcknowledgesACompletion : Prop :=
  ∀ (s : State) (rest : List Input),
    s.inReset = false → s.phase = .idle → s.inputs = HostLine.clr.inputs ++ rest →
    ∃ t, step s = .next t ∧ t = { s with inputs := rest, done := false, wign := false } ∧ t.irq = false

/-- 30_encoding.md R102 with 10_state.md R26 and R31: `RUN` of a command is the one write of its code to CMD, and starts
it. The last clause sets the model's own count of inputs before the completion to 0 (log entry 4): the completion that
then comes next is exec of the command. -/
def Obligations.RunStartsTheNamedCommand : Prop :=
  ∀ (s : State) (i : Instr) (rest : List Input),
    s.inReset = false → s.phase = .idle → s.inputs = (HostLine.run i).inputs ++ rest →
    (HostLine.run i).inputs = [.write .word 0x004 (encode i)] ∧
    ∃ t, step s = .next t ∧ t.phase = .busy (encode i) ∧ t.inputs = rest ∧
      step { t with delay := 0 } = exec i { t with delay := 0 }

/-- 30_encoding.md R102 with 20_memory.md R72: the accesses of a `BITS` line, run from IDLE, leave the bit string as the
input of the next command. -/
def Obligations.BitsLineLoadsTheInput : Prop :=
  ∀ (s : State) (x : Bits),
    s.Inv → s.inReset = false → s.phase = .idle → x.length ≤ s.cfg.maxBits →
    s.inputs = (HostLine.bits x.length x).inputs →
    ∃ t, core.run s.inputs.length s = .next t ∧ t.inputBits = x ∧ t.len.toNat = x.length ∧
      t = { s with inputs := [], len := t.len, mem := t.mem }

/-- 30_encoding.md R102 and 20_memory.md R80(b): `WAIT` reads STATUS; it stays the next input while that reads BUSY =
1 and ends once it reads BUSY = 0, and changes no state of the block. -/
def Obligations.WaitEndsWhenIdle : Prop :=
  ∀ (s : State) (rest : List Input), s.inReset = false → s.inputs = .waitIdle :: rest →
    (s.phase = .idle → step s = .next { s with inputs := rest, lastRead := some (s.readReg .status) }) ∧
    (∀ (op : Word) (d : Nat), s.phase = .busy op → s.delay = d + 1 →
      step s = .next { s with delay := d, lastRead := some (s.readReg .status) })

/-! ### Reset and the invariant -/

/-- 70_reset_and_hazards.md R262: what every register reads after reset, PHASE, and the reset combinations no successful
command leaves. -/
def Obligations.ResetValues : Prop :=
  (∀ (cfg : Config) (r : Reg), (State.resetWith cfg).readReg r = if r = .nwin then 0x00000005 else 0x00000000) ∧
  (∀ cfg : Config, (State.resetWith cfg).phase = .idle ∧ (State.resetWith cfg).irq = false) ∧
  (∀ s t : State, exec .j1939Decode s = .next t → t.err = false → t.jd.da.isSome ≠ t.jd.ge.isSome) ∧
  (∀ (i : Instr) (s t : State), i ∈ [Instr.decodeBaseU, Instr.decodeBaseS, Instr.decodeExtU, Instr.decodeExtS] →
    exec i s = .next t → t.err = false → t.readReg .fBits ≠ 0)

/-- 70_reset_and_hazards.md R260: asserting or releasing reset, in any phase, makes the block IDLE, a running command
abandoned, and gives every register its reset value. Of the buffers the statement says only that their bytes keep their
places: what they hold is redrawn, the model's choice (log entry 3). -/
def Obligations.ResetEvent : Prop :=
  ∀ (s : State) (asserted : Bool) (rest : List Input),
    s.inputs = .reset asserted :: rest → (s.inReset = true ∨ s.phase = .idle ∨ s.delay ≠ 0) →
    ∃ t, step s = .next t ∧ t.phase = .idle ∧ t.irq = false ∧ t.inReset = asserted ∧
      (∀ r : Reg, t.readReg r = (State.resetWith s.cfg).readReg r) ∧
      t.mem.map Prod.fst = bufferAddrs s.cfg ∧ t.cfg = s.cfg ∧ t.inputs = rest

/-- 70_reset_and_hazards.md R261: while reset is asserted a write has no effect and a read returns some value, any one,
and changes no register and no buffer byte. That this holds for every width and address, with no bus error, is the
model's choice (log entry 7). -/
def Obligations.AccessDuringReset : Prop :=
  ∀ (s : State) (width : AccessWidth) (addr : BitVec 12) (rest : List Input), s.inReset = true →
    (∀ v, s.inputs = .write width addr v :: rest → step s = .next { s with inputs := rest }) ∧
    (s.inputs = .read width addr :: rest →
      ∃ v, step s = .next { s with inputs := rest, lastRead := some v, draws := s.draws + 1 })

/-- 70_reset_and_hazards.md R264: after reset, with nothing from outside, the block waits. -/
def Obligations.IdleBlockWaits : Prop :=
  (∀ s : State, s.inReset = false → s.phase = .idle → s.inputs = [] → step s = .next s) ∧
  step State.reset = .next State.reset

/-- The state after reset meets the invariant, for every legal capacity. -/
def Obligations.ResetMeetsTheInvariant : Prop :=
  State.reset.Inv ∧ ∀ cfg : Config, cfg.wf = true → (State.resetWith cfg).Inv

/-- Every step keeps the invariant: the canonical memory, legal error codes, clear flags while BUSY, the constants of a
decoded frame, exactly one of DA and GE. -/
def Obligations.StepKeepsTheInvariant : Prop :=
  ∀ s t : State, s.Inv → step s = .next t → t.Inv

/-- The implementation parameter never changes (00_scope.md R6), and from a legal state no step stops but at a bus error
of the host (60_exceptions.md R236, 70_reset_and_hazards.md R273): the block itself never hangs or stops. -/
def Obligations.StepsStopOnlyAtABusError : Prop :=
  ∀ s : State,
    (∀ t, step s = .next t → t.cfg = s.cfg) ∧
    (∀ r, step s = .fault r → ∃ (reason : BusErrorReason) (width : AccessWidth) (addr : BitVec 12),
      r = .busError reason ∧ portTarget s.cfg width addr = .error reason ∧
      ∃ rest, s.inputs = .read width addr :: rest ∨ ∃ v, s.inputs = .write width addr v :: rest) ∧
    (∀ r, step s ≠ .refused r)
end

