-- ==== Sys2Proof/Laws/Bits.lean ====
section
/-! SUPPORT. The laws of field values, field bits and packed words (00_scope.md R9, 20_memory.md R72). -/

namespace Sys2Proof.Machine

@[simp] theorem val_nil : val [] = 0 := rfl

/-- The value of a sequence whose last bit is b. -/
theorem val_concat (x : Bits) (b : Bool) : val (x ++ [b]) = 2 * val x + b.toNat := by
  simp [val, List.foldl_append]

/-- Values of sequences put one after the other. -/
theorem val_append (x y : Bits) : val (x ++ y) = val x * 2 ^ y.length + val y := by
  induction y using List.reverseRecOn with
  | nil => simp
  | append_singleton y b ih =>
    rw [← List.append_assoc, val_concat, val_concat, ih, List.length_append, List.length_singleton, pow_succ]
    ring

/-- The value of a sequence whose first bit is b. -/
theorem val_cons (b : Bool) (x : Bits) : val (b :: x) = b.toNat * 2 ^ x.length + val x := by
  rw [show b :: x = [b] ++ x from rfl, val_append]; simp [val]

/-- A field of w bits has a value below 2^w. -/
theorem val_lt (x : Bits) : val x < 2 ^ x.length := by
  induction x using List.reverseRecOn with
  | nil => simp
  | append_singleton x b ih =>
    rw [val_concat, List.length_append, List.length_singleton, pow_succ]
    cases b <;> simp <;> omega

/-- The bits of a value: bit i of val x is the i-th bit from the end. -/
theorem val_testBit (x : Bits) (i : Nat) (h : i < x.length) : (val x).testBit i = x[x.length - 1 - i] := by
  induction x using List.reverseRecOn generalizing i with
  | nil => simp at h
  | append_singleton x b ih =>
    have h2 : val (x ++ [b]) = 2 * val x + b.toNat := val_concat x b
    rw [h2]
    cases i with
    | zero => cases b <;> simp
    | succ i =>
      have h3 : i < x.length := by simpa using h
      rw [Nat.testBit_succ, show (2 * val x + b.toNat) / 2 = val x by cases b <;> (simp; try omega), ih i h3]
      rw [List.getElem_append_left (by simp; omega)]
      congr 1
      simp; omega

@[simp] theorem fieldBits_length (w v : Nat) : (fieldBits w v).length = w := by simp [fieldBits]

@[simp] theorem sentBits_length (w : Nat) (v : BitVec w) : (sentBits w v).length = w := by simp [sentBits]

theorem slice_length (x : Bits) (p w : Nat) (h : p + w ≤ x.length) : (slice x p w).length = w := by
  simp [slice]; omega

/-- Bit j of a packed word: bit 32k + (31 - j) of the sequence, 0 beyond its end (20_memory.md R72). -/
theorem packWord_getLsbD (x : Bits) (k j : Nat) (h : j < 32) :
    (packWord x k).getLsbD j = x.getD (32 * k + (31 - j)) false := by
  have hl : ((List.range 32).map fun i => x.getD (32 * k + i) false).length = 32 := by simp
  rw [packWord, BitVec.getLsbD_ofNat, val_testBit _ _ (by rw [hl]; exact h)]
  simp [h]

end Sys2Proof.Machine
end

