-- ==== Sys2Proof/Laws/Operands.lean ====
section
/-! SUPPORT. What each operand read answers, as one case distinction (60_exceptions.md R232 to R235). -/

namespace Sys2Proof.Machine

@[simp] theorem require_true (k : ErrorKind) (p : Nat) : require true k p = .ok () := rfl

@[simp] theorem require_false (k : ErrorKind) (p : Nat) : require false k p = .error { kind := k, pos := p } := rfl

/-- A check either passes or raises its error. -/
theorem require_eq (c : Bool) (k : ErrorKind) (p : Nat) :
    require c k p = if c = true then .ok () else .error { kind := k, pos := p } := rfl

theorem State.windowOperand_eq (s : State) :
    s.windowOperand =
      if 1 ≤ s.nwin.toNat ∧ s.nwin.toNat ≤ 31 then .ok s.nwin.toNat
      else .error { kind := .operandRange, pos := 0x010 } := by
  by_cases h : 1 ≤ s.nwin.toNat ∧ s.nwin.toNat ≤ 31
  · rw [if_pos h, State.windowOperand, decide_eq_true h]; rfl
  · rw [if_neg h, State.windowOperand, decide_eq_false h]; rfl

theorem State.bitsOperand_eq (s : State) :
    s.bitsOperand =
      if s.len.toNat ≤ s.cfg.maxBits then .ok s.inputBits else .error { kind := .operandRange, pos := 0x014 } := by
  by_cases h : s.len.toNat ≤ s.cfg.maxBits
  · rw [if_pos h, State.bitsOperand, decide_eq_true h]; rfl
  · rw [if_neg h, State.bitsOperand, decide_eq_false h]; rfl

theorem State.canIdOperand_standard (s : State) (hk : s.opk = .standard) :
    s.canIdOperand =
      if s.opv.toNat < 2 ^ 11 then .ok (.standard (s.opv.setWidth 11))
      else .error { kind := .operandRange, pos := 0x024 } := by
  by_cases h : s.opv.toNat < 2 ^ 11
  · rw [if_pos h, State.canIdOperand, hk, decide_eq_true h]; rfl
  · rw [if_neg h, State.canIdOperand, hk, decide_eq_false h]; rfl

theorem State.canIdOperand_extended (s : State) (hk : s.opk = .extended) :
    s.canIdOperand =
      if s.opv.toNat < 2 ^ 29 then .ok (.extended (s.opv.setWidth 29))
      else .error { kind := .operandRange, pos := 0x024 } := by
  by_cases h : s.opv.toNat < 2 ^ 29
  · rw [if_pos h, State.canIdOperand, hk, decide_eq_true h]; rfl
  · rw [if_neg h, State.canIdOperand, hk, decide_eq_false h]; rfl

theorem State.canDbIdOperand_standard (s : State) (hk : s.opk = .standard) :
    s.canDbIdOperand =
      if s.opv.toNat < 2 ^ 11 then .ok (.standard (s.opv.setWidth 11))
      else .error { kind := .operandRange, pos := 0x024 } := by
  by_cases h : s.opv.toNat < 2 ^ 11
  · rw [if_pos h, State.canDbIdOperand, hk, decide_eq_true h]; rfl
  · rw [if_neg h, State.canDbIdOperand, hk, decide_eq_false h]; rfl

theorem State.canDbIdOperand_extended (s : State) (hk : s.opk = .extended) :
    s.canDbIdOperand = .ok (.extended s.opv) := by rw [State.canDbIdOperand, hk]

theorem State.j1939Operand_standard (s : State) (hk : s.opk = .standard) :
    s.j1939Operand = .error { kind := .conversion, pos := 0x020 } := by rw [State.j1939Operand, hk]; rfl

theorem State.j1939Operand_extended (s : State) (hk : s.opk = .extended) :
    s.j1939Operand =
      if s.opv.toNat < 2 ^ 29 then .ok (s.opv.setWidth 29)
      else .error { kind := .operandRange, pos := 0x024 } := by
  by_cases h : s.opv.toNat < 2 ^ 29
  · rw [if_pos h, State.j1939Operand, hk, decide_eq_true h]; rfl
  · rw [if_neg h, State.j1939Operand, hk, decide_eq_false h]; rfl

theorem State.j1939FieldsOperand_eq (s : State) :
    s.j1939FieldsOperand =
      if s.jePrio.toNat < 2 ^ 3 then
        if s.jePgn.toNat < 2 ^ 18 then
          if s.jeSa.toNat < 2 ^ 8 then
            .ok { priority := s.jePrio.setWidth 3, pgn := s.jePgn.setWidth 18, sa := s.jeSa.setWidth 8 }
          else .error { kind := .operandRange, pos := 0x038 }
        else .error { kind := .operandRange, pos := 0x034 }
      else .error { kind := .operandRange, pos := 0x030 } := by
  unfold State.j1939FieldsOperand
  by_cases h1 : s.jePrio.toNat < 2 ^ 3 <;> by_cases h2 : s.jePgn.toNat < 2 ^ 18 <;> by_cases h3 : s.jeSa.toNat < 2 ^ 8 <;>
    simp only [h1, h2, h3, decide_true, decide_false, if_true, if_false] <;> rfl

/-- The input of a command has LEN bits. -/
@[simp] theorem State.inputBits_length (s : State) : s.inputBits.length = s.len.toNat := by simp [State.inputBits]

/-- Bit k of the input is bit k of BITBUF (20_memory.md R72). -/
theorem State.inputBits_getElem (s : State) (k : Nat) (h : k < s.inputBits.length) :
    s.inputBits[k] = s.mem.bufBit bitbufBase k := by simp [State.inputBits]

end Sys2Proof.Machine
end

