-- ==== Sys2Proof/Laws/State.lean ====
section
/-! SUPPORT. One lemma per field and per update of State: no later proof unfolds a record update. -/

namespace Sys2Proof.Machine


/-! `State.completeOk` -/

@[simp] theorem State.completeOk_ctrlIE (s : State) : s.completeOk.ctrlIE = s.ctrlIE := rfl
@[simp] theorem State.completeOk_phase (s : State) : s.completeOk.phase = .idle := rfl
@[simp] theorem State.completeOk_done (s : State) : s.completeOk.done = true := rfl
@[simp] theorem State.completeOk_err (s : State) : s.completeOk.err = false := rfl
@[simp] theorem State.completeOk_wign (s : State) : s.completeOk.wign = s.wign := rfl
@[simp] theorem State.completeOk_errcode (s : State) : s.completeOk.errcode = 0 := rfl
@[simp] theorem State.completeOk_errpos (s : State) : s.completeOk.errpos = 0 := rfl
@[simp] theorem State.completeOk_nwin (s : State) : s.completeOk.nwin = s.nwin := rfl
@[simp] theorem State.completeOk_len (s : State) : s.completeOk.len = s.len := rfl
@[simp] theorem State.completeOk_outlen (s : State) : s.completeOk.outlen = s.outlen := rfl
@[simp] theorem State.completeOk_opk (s : State) : s.completeOk.opk = s.opk := rfl
@[simp] theorem State.completeOk_opv (s : State) : s.completeOk.opv = s.opv := rfl
@[simp] theorem State.completeOk_resk (s : State) : s.completeOk.resk = s.resk := rfl
@[simp] theorem State.completeOk_resv (s : State) : s.completeOk.resv = s.resv := rfl
@[simp] theorem State.completeOk_jePrio (s : State) : s.completeOk.jePrio = s.jePrio := rfl
@[simp] theorem State.completeOk_jePgn (s : State) : s.completeOk.jePgn = s.jePgn := rfl
@[simp] theorem State.completeOk_jeSa (s : State) : s.completeOk.jeSa = s.jeSa := rfl
@[simp] theorem State.completeOk_jd (s : State) : s.completeOk.jd = s.jd := rfl
@[simp] theorem State.completeOk_frame (s : State) : s.completeOk.frame = s.frame := rfl
@[simp] theorem State.completeOk_mem (s : State) : s.completeOk.mem = s.mem := rfl
@[simp] theorem State.completeOk_inReset (s : State) : s.completeOk.inReset = s.inReset := rfl
@[simp] theorem State.completeOk_cfg (s : State) : s.completeOk.cfg = s.cfg := rfl
@[simp] theorem State.completeOk_inputs (s : State) : s.completeOk.inputs = s.inputs := rfl
@[simp] theorem State.completeOk_delay (s : State) : s.completeOk.delay = s.delay := rfl
@[simp] theorem State.completeOk_draws (s : State) : s.completeOk.draws = s.draws := rfl
@[simp] theorem State.completeOk_lastRead (s : State) : s.completeOk.lastRead = s.lastRead := rfl

/-! `State.completeError` -/

@[simp] theorem State.completeError_ctrlIE (s : State) (e : CmdError) : (s.completeError e).ctrlIE = s.ctrlIE := rfl
@[simp] theorem State.completeError_phase (s : State) (e : CmdError) : (s.completeError e).phase = .idle := rfl
@[simp] theorem State.completeError_done (s : State) (e : CmdError) : (s.completeError e).done = true := rfl
@[simp] theorem State.completeError_err (s : State) (e : CmdError) : (s.completeError e).err = true := rfl
@[simp] theorem State.completeError_wign (s : State) (e : CmdError) : (s.completeError e).wign = s.wign := rfl
@[simp] theorem State.completeError_errcode (s : State) (e : CmdError) : (s.completeError e).errcode = e.kind.code := rfl
@[simp] theorem State.completeError_errpos (s : State) (e : CmdError) : (s.completeError e).errpos = BitVec.ofNat 12 e.pos := rfl
@[simp] theorem State.completeError_nwin (s : State) (e : CmdError) : (s.completeError e).nwin = s.nwin := rfl
@[simp] theorem State.completeError_len (s : State) (e : CmdError) : (s.completeError e).len = s.len := rfl
@[simp] theorem State.completeError_outlen (s : State) (e : CmdError) : (s.completeError e).outlen = s.outlen := rfl
@[simp] theorem State.completeError_opk (s : State) (e : CmdError) : (s.completeError e).opk = s.opk := rfl
@[simp] theorem State.completeError_opv (s : State) (e : CmdError) : (s.completeError e).opv = s.opv := rfl
@[simp] theorem State.completeError_resk (s : State) (e : CmdError) : (s.completeError e).resk = s.resk := rfl
@[simp] theorem State.completeError_resv (s : State) (e : CmdError) : (s.completeError e).resv = s.resv := rfl
@[simp] theorem State.completeError_jePrio (s : State) (e : CmdError) : (s.completeError e).jePrio = s.jePrio := rfl
@[simp] theorem State.completeError_jePgn (s : State) (e : CmdError) : (s.completeError e).jePgn = s.jePgn := rfl
@[simp] theorem State.completeError_jeSa (s : State) (e : CmdError) : (s.completeError e).jeSa = s.jeSa := rfl
@[simp] theorem State.completeError_jd (s : State) (e : CmdError) : (s.completeError e).jd = s.jd := rfl
@[simp] theorem State.completeError_frame (s : State) (e : CmdError) : (s.completeError e).frame = s.frame := rfl
@[simp] theorem State.completeError_mem (s : State) (e : CmdError) : (s.completeError e).mem = s.mem := rfl
@[simp] theorem State.completeError_inReset (s : State) (e : CmdError) : (s.completeError e).inReset = s.inReset := rfl
@[simp] theorem State.completeError_cfg (s : State) (e : CmdError) : (s.completeError e).cfg = s.cfg := rfl
@[simp] theorem State.completeError_inputs (s : State) (e : CmdError) : (s.completeError e).inputs = s.inputs := rfl
@[simp] theorem State.completeError_delay (s : State) (e : CmdError) : (s.completeError e).delay = s.delay := rfl
@[simp] theorem State.completeError_draws (s : State) (e : CmdError) : (s.completeError e).draws = s.draws := rfl
@[simp] theorem State.completeError_lastRead (s : State) (e : CmdError) : (s.completeError e).lastRead = s.lastRead := rfl

/-! `State.enterBusy` -/

@[simp] theorem State.enterBusy_ctrlIE (s : State) (v : Word) : (s.enterBusy v).ctrlIE = s.ctrlIE := rfl
@[simp] theorem State.enterBusy_phase (s : State) (v : Word) : (s.enterBusy v).phase = .busy v := rfl
@[simp] theorem State.enterBusy_done (s : State) (v : Word) : (s.enterBusy v).done = false := rfl
@[simp] theorem State.enterBusy_err (s : State) (v : Word) : (s.enterBusy v).err = false := rfl
@[simp] theorem State.enterBusy_wign (s : State) (v : Word) : (s.enterBusy v).wign = s.wign := rfl
@[simp] theorem State.enterBusy_errcode (s : State) (v : Word) : (s.enterBusy v).errcode = 0 := rfl
@[simp] theorem State.enterBusy_errpos (s : State) (v : Word) : (s.enterBusy v).errpos = 0 := rfl
@[simp] theorem State.enterBusy_nwin (s : State) (v : Word) : (s.enterBusy v).nwin = s.nwin := rfl
@[simp] theorem State.enterBusy_len (s : State) (v : Word) : (s.enterBusy v).len = s.len := rfl
@[simp] theorem State.enterBusy_outlen (s : State) (v : Word) : (s.enterBusy v).outlen = s.outlen := rfl
@[simp] theorem State.enterBusy_opk (s : State) (v : Word) : (s.enterBusy v).opk = s.opk := rfl
@[simp] theorem State.enterBusy_opv (s : State) (v : Word) : (s.enterBusy v).opv = s.opv := rfl
@[simp] theorem State.enterBusy_resk (s : State) (v : Word) : (s.enterBusy v).resk = s.resk := rfl
@[simp] theorem State.enterBusy_resv (s : State) (v : Word) : (s.enterBusy v).resv = s.resv := rfl
@[simp] theorem State.enterBusy_jePrio (s : State) (v : Word) : (s.enterBusy v).jePrio = s.jePrio := rfl
@[simp] theorem State.enterBusy_jePgn (s : State) (v : Word) : (s.enterBusy v).jePgn = s.jePgn := rfl
@[simp] theorem State.enterBusy_jeSa (s : State) (v : Word) : (s.enterBusy v).jeSa = s.jeSa := rfl
@[simp] theorem State.enterBusy_jd (s : State) (v : Word) : (s.enterBusy v).jd = s.jd := rfl
@[simp] theorem State.enterBusy_frame (s : State) (v : Word) : (s.enterBusy v).frame = s.frame := rfl
@[simp] theorem State.enterBusy_mem (s : State) (v : Word) : (s.enterBusy v).mem = s.mem := rfl
@[simp] theorem State.enterBusy_inReset (s : State) (v : Word) : (s.enterBusy v).inReset = s.inReset := rfl
@[simp] theorem State.enterBusy_cfg (s : State) (v : Word) : (s.enterBusy v).cfg = s.cfg := rfl
@[simp] theorem State.enterBusy_inputs (s : State) (v : Word) : (s.enterBusy v).inputs = s.inputs := rfl
@[simp] theorem State.enterBusy_delay (s : State) (v : Word) : (s.enterBusy v).delay = s.delay := rfl
@[simp] theorem State.enterBusy_draws (s : State) (v : Word) : (s.enterBusy v).draws = s.draws := rfl
@[simp] theorem State.enterBusy_lastRead (s : State) (v : Word) : (s.enterBusy v).lastRead = s.lastRead := rfl

/-! `State.startCommand` -/

@[simp] theorem State.startCommand_ctrlIE (s : State) (v : Word) : (s.startCommand v).ctrlIE = s.ctrlIE := rfl
@[simp] theorem State.startCommand_phase (s : State) (v : Word) : (s.startCommand v).phase = .busy v := rfl
@[simp] theorem State.startCommand_done (s : State) (v : Word) : (s.startCommand v).done = false := rfl
@[simp] theorem State.startCommand_err (s : State) (v : Word) : (s.startCommand v).err = false := rfl
@[simp] theorem State.startCommand_wign (s : State) (v : Word) : (s.startCommand v).wign = s.wign := rfl
@[simp] theorem State.startCommand_errcode (s : State) (v : Word) : (s.startCommand v).errcode = 0 := rfl
@[simp] theorem State.startCommand_errpos (s : State) (v : Word) : (s.startCommand v).errpos = 0 := rfl
@[simp] theorem State.startCommand_nwin (s : State) (v : Word) : (s.startCommand v).nwin = s.nwin := rfl
@[simp] theorem State.startCommand_len (s : State) (v : Word) : (s.startCommand v).len = s.len := rfl
@[simp] theorem State.startCommand_outlen (s : State) (v : Word) : (s.startCommand v).outlen = s.outlen := rfl
@[simp] theorem State.startCommand_opk (s : State) (v : Word) : (s.startCommand v).opk = s.opk := rfl
@[simp] theorem State.startCommand_opv (s : State) (v : Word) : (s.startCommand v).opv = s.opv := rfl
@[simp] theorem State.startCommand_resk (s : State) (v : Word) : (s.startCommand v).resk = s.resk := rfl
@[simp] theorem State.startCommand_resv (s : State) (v : Word) : (s.startCommand v).resv = s.resv := rfl
@[simp] theorem State.startCommand_jePrio (s : State) (v : Word) : (s.startCommand v).jePrio = s.jePrio := rfl
@[simp] theorem State.startCommand_jePgn (s : State) (v : Word) : (s.startCommand v).jePgn = s.jePgn := rfl
@[simp] theorem State.startCommand_jeSa (s : State) (v : Word) : (s.startCommand v).jeSa = s.jeSa := rfl
@[simp] theorem State.startCommand_jd (s : State) (v : Word) : (s.startCommand v).jd = s.jd := rfl
@[simp] theorem State.startCommand_frame (s : State) (v : Word) : (s.startCommand v).frame = s.frame := rfl
@[simp] theorem State.startCommand_mem (s : State) (v : Word) : (s.startCommand v).mem = s.mem := rfl
@[simp] theorem State.startCommand_inReset (s : State) (v : Word) : (s.startCommand v).inReset = s.inReset := rfl
@[simp] theorem State.startCommand_cfg (s : State) (v : Word) : (s.startCommand v).cfg = s.cfg := rfl
@[simp] theorem State.startCommand_inputs (s : State) (v : Word) : (s.startCommand v).inputs = s.inputs := rfl
@[simp] theorem State.startCommand_delay (s : State) (v : Word) : (s.startCommand v).delay = Config.freeDelay s.draws := rfl
@[simp] theorem State.startCommand_draws (s : State) (v : Word) : (s.startCommand v).draws = s.draws + 1 := rfl
@[simp] theorem State.startCommand_lastRead (s : State) (v : Word) : (s.startCommand v).lastRead = s.lastRead := rfl

/-! `State.ackStatus` -/

@[simp] theorem State.ackStatus_ctrlIE (s : State) (v : Word) : (s.ackStatus v).ctrlIE = s.ctrlIE := rfl
@[simp] theorem State.ackStatus_phase (s : State) (v : Word) : (s.ackStatus v).phase = s.phase := rfl
@[simp] theorem State.ackStatus_done (s : State) (v : Word) : (s.ackStatus v).done = (s.done && !v.getLsbD 1) := rfl
@[simp] theorem State.ackStatus_err (s : State) (v : Word) : (s.ackStatus v).err = s.err := rfl
@[simp] theorem State.ackStatus_wign (s : State) (v : Word) : (s.ackStatus v).wign = (s.wign && !v.getLsbD 3) := rfl
@[simp] theorem State.ackStatus_errcode (s : State) (v : Word) : (s.ackStatus v).errcode = s.errcode := rfl
@[simp] theorem State.ackStatus_errpos (s : State) (v : Word) : (s.ackStatus v).errpos = s.errpos := rfl
@[simp] theorem State.ackStatus_nwin (s : State) (v : Word) : (s.ackStatus v).nwin = s.nwin := rfl
@[simp] theorem State.ackStatus_len (s : State) (v : Word) : (s.ackStatus v).len = s.len := rfl
@[simp] theorem State.ackStatus_outlen (s : State) (v : Word) : (s.ackStatus v).outlen = s.outlen := rfl
@[simp] theorem State.ackStatus_opk (s : State) (v : Word) : (s.ackStatus v).opk = s.opk := rfl
@[simp] theorem State.ackStatus_opv (s : State) (v : Word) : (s.ackStatus v).opv = s.opv := rfl
@[simp] theorem State.ackStatus_resk (s : State) (v : Word) : (s.ackStatus v).resk = s.resk := rfl
@[simp] theorem State.ackStatus_resv (s : State) (v : Word) : (s.ackStatus v).resv = s.resv := rfl
@[simp] theorem State.ackStatus_jePrio (s : State) (v : Word) : (s.ackStatus v).jePrio = s.jePrio := rfl
@[simp] theorem State.ackStatus_jePgn (s : State) (v : Word) : (s.ackStatus v).jePgn = s.jePgn := rfl
@[simp] theorem State.ackStatus_jeSa (s : State) (v : Word) : (s.ackStatus v).jeSa = s.jeSa := rfl
@[simp] theorem State.ackStatus_jd (s : State) (v : Word) : (s.ackStatus v).jd = s.jd := rfl
@[simp] theorem State.ackStatus_frame (s : State) (v : Word) : (s.ackStatus v).frame = s.frame := rfl
@[simp] theorem State.ackStatus_mem (s : State) (v : Word) : (s.ackStatus v).mem = s.mem := rfl
@[simp] theorem State.ackStatus_inReset (s : State) (v : Word) : (s.ackStatus v).inReset = s.inReset := rfl
@[simp] theorem State.ackStatus_cfg (s : State) (v : Word) : (s.ackStatus v).cfg = s.cfg := rfl
@[simp] theorem State.ackStatus_inputs (s : State) (v : Word) : (s.ackStatus v).inputs = s.inputs := rfl
@[simp] theorem State.ackStatus_delay (s : State) (v : Word) : (s.ackStatus v).delay = s.delay := rfl
@[simp] theorem State.ackStatus_draws (s : State) (v : Word) : (s.ackStatus v).draws = s.draws := rfl
@[simp] theorem State.ackStatus_lastRead (s : State) (v : Word) : (s.ackStatus v).lastRead = s.lastRead := rfl

/-! `State.ignoreWrite` -/

@[simp] theorem State.ignoreWrite_ctrlIE (s : State) : s.ignoreWrite.ctrlIE = s.ctrlIE := rfl
@[simp] theorem State.ignoreWrite_phase (s : State) : s.ignoreWrite.phase = s.phase := rfl
@[simp] theorem State.ignoreWrite_done (s : State) : s.ignoreWrite.done = s.done := rfl
@[simp] theorem State.ignoreWrite_err (s : State) : s.ignoreWrite.err = s.err := rfl
@[simp] theorem State.ignoreWrite_wign (s : State) : s.ignoreWrite.wign = true := rfl
@[simp] theorem State.ignoreWrite_errcode (s : State) : s.ignoreWrite.errcode = s.errcode := rfl
@[simp] theorem State.ignoreWrite_errpos (s : State) : s.ignoreWrite.errpos = s.errpos := rfl
@[simp] theorem State.ignoreWrite_nwin (s : State) : s.ignoreWrite.nwin = s.nwin := rfl
@[simp] theorem State.ignoreWrite_len (s : State) : s.ignoreWrite.len = s.len := rfl
@[simp] theorem State.ignoreWrite_outlen (s : State) : s.ignoreWrite.outlen = s.outlen := rfl
@[simp] theorem State.ignoreWrite_opk (s : State) : s.ignoreWrite.opk = s.opk := rfl
@[simp] theorem State.ignoreWrite_opv (s : State) : s.ignoreWrite.opv = s.opv := rfl
@[simp] theorem State.ignoreWrite_resk (s : State) : s.ignoreWrite.resk = s.resk := rfl
@[simp] theorem State.ignoreWrite_resv (s : State) : s.ignoreWrite.resv = s.resv := rfl
@[simp] theorem State.ignoreWrite_jePrio (s : State) : s.ignoreWrite.jePrio = s.jePrio := rfl
@[simp] theorem State.ignoreWrite_jePgn (s : State) : s.ignoreWrite.jePgn = s.jePgn := rfl
@[simp] theorem State.ignoreWrite_jeSa (s : State) : s.ignoreWrite.jeSa = s.jeSa := rfl
@[simp] theorem State.ignoreWrite_jd (s : State) : s.ignoreWrite.jd = s.jd := rfl
@[simp] theorem State.ignoreWrite_frame (s : State) : s.ignoreWrite.frame = s.frame := rfl
@[simp] theorem State.ignoreWrite_mem (s : State) : s.ignoreWrite.mem = s.mem := rfl
@[simp] theorem State.ignoreWrite_inReset (s : State) : s.ignoreWrite.inReset = s.inReset := rfl
@[simp] theorem State.ignoreWrite_cfg (s : State) : s.ignoreWrite.cfg = s.cfg := rfl
@[simp] theorem State.ignoreWrite_inputs (s : State) : s.ignoreWrite.inputs = s.inputs := rfl
@[simp] theorem State.ignoreWrite_delay (s : State) : s.ignoreWrite.delay = s.delay := rfl
@[simp] theorem State.ignoreWrite_draws (s : State) : s.ignoreWrite.draws = s.draws := rfl
@[simp] theorem State.ignoreWrite_lastRead (s : State) : s.ignoreWrite.lastRead = s.lastRead := rfl

/-! `State.writeUnstuffed` -/

@[simp] theorem State.writeUnstuffed_ctrlIE (s : State) (y : Bits) : (s.writeUnstuffed y).ctrlIE = s.ctrlIE := rfl
@[simp] theorem State.writeUnstuffed_phase (s : State) (y : Bits) : (s.writeUnstuffed y).phase = s.phase := rfl
@[simp] theorem State.writeUnstuffed_done (s : State) (y : Bits) : (s.writeUnstuffed y).done = s.done := rfl
@[simp] theorem State.writeUnstuffed_err (s : State) (y : Bits) : (s.writeUnstuffed y).err = s.err := rfl
@[simp] theorem State.writeUnstuffed_wign (s : State) (y : Bits) : (s.writeUnstuffed y).wign = s.wign := rfl
@[simp] theorem State.writeUnstuffed_errcode (s : State) (y : Bits) : (s.writeUnstuffed y).errcode = s.errcode := rfl
@[simp] theorem State.writeUnstuffed_errpos (s : State) (y : Bits) : (s.writeUnstuffed y).errpos = s.errpos := rfl
@[simp] theorem State.writeUnstuffed_nwin (s : State) (y : Bits) : (s.writeUnstuffed y).nwin = s.nwin := rfl
@[simp] theorem State.writeUnstuffed_len (s : State) (y : Bits) : (s.writeUnstuffed y).len = s.len := rfl
@[simp] theorem State.writeUnstuffed_outlen (s : State) (y : Bits) : (s.writeUnstuffed y).outlen = BitVec.ofNat 12 y.length := rfl
@[simp] theorem State.writeUnstuffed_opk (s : State) (y : Bits) : (s.writeUnstuffed y).opk = s.opk := rfl
@[simp] theorem State.writeUnstuffed_opv (s : State) (y : Bits) : (s.writeUnstuffed y).opv = s.opv := rfl
@[simp] theorem State.writeUnstuffed_resk (s : State) (y : Bits) : (s.writeUnstuffed y).resk = s.resk := rfl
@[simp] theorem State.writeUnstuffed_resv (s : State) (y : Bits) : (s.writeUnstuffed y).resv = s.resv := rfl
@[simp] theorem State.writeUnstuffed_jePrio (s : State) (y : Bits) : (s.writeUnstuffed y).jePrio = s.jePrio := rfl
@[simp] theorem State.writeUnstuffed_jePgn (s : State) (y : Bits) : (s.writeUnstuffed y).jePgn = s.jePgn := rfl
@[simp] theorem State.writeUnstuffed_jeSa (s : State) (y : Bits) : (s.writeUnstuffed y).jeSa = s.jeSa := rfl
@[simp] theorem State.writeUnstuffed_jd (s : State) (y : Bits) : (s.writeUnstuffed y).jd = s.jd := rfl
@[simp] theorem State.writeUnstuffed_frame (s : State) (y : Bits) : (s.writeUnstuffed y).frame = s.frame := rfl
@[simp] theorem State.writeUnstuffed_mem (s : State) (y : Bits) : (s.writeUnstuffed y).mem = s.mem.fillOutbuf s.cfg.maxBits y := rfl
@[simp] theorem State.writeUnstuffed_inReset (s : State) (y : Bits) : (s.writeUnstuffed y).inReset = s.inReset := rfl
@[simp] theorem State.writeUnstuffed_cfg (s : State) (y : Bits) : (s.writeUnstuffed y).cfg = s.cfg := rfl
@[simp] theorem State.writeUnstuffed_inputs (s : State) (y : Bits) : (s.writeUnstuffed y).inputs = s.inputs := rfl
@[simp] theorem State.writeUnstuffed_delay (s : State) (y : Bits) : (s.writeUnstuffed y).delay = s.delay := rfl
@[simp] theorem State.writeUnstuffed_draws (s : State) (y : Bits) : (s.writeUnstuffed y).draws = s.draws := rfl
@[simp] theorem State.writeUnstuffed_lastRead (s : State) (y : Bits) : (s.writeUnstuffed y).lastRead = s.lastRead := rfl

/-! `State.readInReset` -/

@[simp] theorem State.readInReset_ctrlIE (s : State) : s.readInReset.ctrlIE = s.ctrlIE := rfl
@[simp] theorem State.readInReset_phase (s : State) : s.readInReset.phase = s.phase := rfl
@[simp] theorem State.readInReset_done (s : State) : s.readInReset.done = s.done := rfl
@[simp] theorem State.readInReset_err (s : State) : s.readInReset.err = s.err := rfl
@[simp] theorem State.readInReset_wign (s : State) : s.readInReset.wign = s.wign := rfl
@[simp] theorem State.readInReset_errcode (s : State) : s.readInReset.errcode = s.errcode := rfl
@[simp] theorem State.readInReset_errpos (s : State) : s.readInReset.errpos = s.errpos := rfl
@[simp] theorem State.readInReset_nwin (s : State) : s.readInReset.nwin = s.nwin := rfl
@[simp] theorem State.readInReset_len (s : State) : s.readInReset.len = s.len := rfl
@[simp] theorem State.readInReset_outlen (s : State) : s.readInReset.outlen = s.outlen := rfl
@[simp] theorem State.readInReset_opk (s : State) : s.readInReset.opk = s.opk := rfl
@[simp] theorem State.readInReset_opv (s : State) : s.readInReset.opv = s.opv := rfl
@[simp] theorem State.readInReset_resk (s : State) : s.readInReset.resk = s.resk := rfl
@[simp] theorem State.readInReset_resv (s : State) : s.readInReset.resv = s.resv := rfl
@[simp] theorem State.readInReset_jePrio (s : State) : s.readInReset.jePrio = s.jePrio := rfl
@[simp] theorem State.readInReset_jePgn (s : State) : s.readInReset.jePgn = s.jePgn := rfl
@[simp] theorem State.readInReset_jeSa (s : State) : s.readInReset.jeSa = s.jeSa := rfl
@[simp] theorem State.readInReset_jd (s : State) : s.readInReset.jd = s.jd := rfl
@[simp] theorem State.readInReset_frame (s : State) : s.readInReset.frame = s.frame := rfl
@[simp] theorem State.readInReset_mem (s : State) : s.readInReset.mem = s.mem := rfl
@[simp] theorem State.readInReset_inReset (s : State) : s.readInReset.inReset = s.inReset := rfl
@[simp] theorem State.readInReset_cfg (s : State) : s.readInReset.cfg = s.cfg := rfl
@[simp] theorem State.readInReset_inputs (s : State) : s.readInReset.inputs = s.inputs := rfl
@[simp] theorem State.readInReset_delay (s : State) : s.readInReset.delay = s.delay := rfl
@[simp] theorem State.readInReset_draws (s : State) : s.readInReset.draws = s.draws + 1 := rfl
@[simp] theorem State.readInReset_lastRead (s : State) : s.readInReset.lastRead = some (Config.freeReadInReset s.draws) := rfl

/-! `State.withFetchWord` -/

@[simp] theorem State.withFetchWord_ctrlIE (s : State) (nbits w : Nat) : (s.withFetchWord nbits w).ctrlIE = s.ctrlIE := rfl
@[simp] theorem State.withFetchWord_phase (s : State) (nbits w : Nat) : (s.withFetchWord nbits w).phase = .busy (BitVec.ofNat 32 (w % 2 ^ nbits)) := rfl
@[simp] theorem State.withFetchWord_done (s : State) (nbits w : Nat) : (s.withFetchWord nbits w).done = false := rfl
@[simp] theorem State.withFetchWord_err (s : State) (nbits w : Nat) : (s.withFetchWord nbits w).err = false := rfl
@[simp] theorem State.withFetchWord_wign (s : State) (nbits w : Nat) : (s.withFetchWord nbits w).wign = s.wign := rfl
@[simp] theorem State.withFetchWord_errcode (s : State) (nbits w : Nat) : (s.withFetchWord nbits w).errcode = 0 := rfl
@[simp] theorem State.withFetchWord_errpos (s : State) (nbits w : Nat) : (s.withFetchWord nbits w).errpos = 0 := rfl
@[simp] theorem State.withFetchWord_nwin (s : State) (nbits w : Nat) : (s.withFetchWord nbits w).nwin = s.nwin := rfl
@[simp] theorem State.withFetchWord_len (s : State) (nbits w : Nat) : (s.withFetchWord nbits w).len = s.len := rfl
@[simp] theorem State.withFetchWord_outlen (s : State) (nbits w : Nat) : (s.withFetchWord nbits w).outlen = s.outlen := rfl
@[simp] theorem State.withFetchWord_opk (s : State) (nbits w : Nat) : (s.withFetchWord nbits w).opk = s.opk := rfl
@[simp] theorem State.withFetchWord_opv (s : State) (nbits w : Nat) : (s.withFetchWord nbits w).opv = s.opv := rfl
@[simp] theorem State.withFetchWord_resk (s : State) (nbits w : Nat) : (s.withFetchWord nbits w).resk = s.resk := rfl
@[simp] theorem State.withFetchWord_resv (s : State) (nbits w : Nat) : (s.withFetchWord nbits w).resv = s.resv := rfl
@[simp] theorem State.withFetchWord_jePrio (s : State) (nbits w : Nat) : (s.withFetchWord nbits w).jePrio = s.jePrio := rfl
@[simp] theorem State.withFetchWord_jePgn (s : State) (nbits w : Nat) : (s.withFetchWord nbits w).jePgn = s.jePgn := rfl
@[simp] theorem State.withFetchWord_jeSa (s : State) (nbits w : Nat) : (s.withFetchWord nbits w).jeSa = s.jeSa := rfl
@[simp] theorem State.withFetchWord_jd (s : State) (nbits w : Nat) : (s.withFetchWord nbits w).jd = s.jd := rfl
@[simp] theorem State.withFetchWord_frame (s : State) (nbits w : Nat) : (s.withFetchWord nbits w).frame = s.frame := rfl
@[simp] theorem State.withFetchWord_mem (s : State) (nbits w : Nat) : (s.withFetchWord nbits w).mem = s.mem := rfl
@[simp] theorem State.withFetchWord_inReset (s : State) (nbits w : Nat) : (s.withFetchWord nbits w).inReset = false := rfl
@[simp] theorem State.withFetchWord_cfg (s : State) (nbits w : Nat) : (s.withFetchWord nbits w).cfg = s.cfg := rfl
@[simp] theorem State.withFetchWord_inputs (s : State) (nbits w : Nat) : (s.withFetchWord nbits w).inputs = s.inputs := rfl
@[simp] theorem State.withFetchWord_delay (s : State) (nbits w : Nat) : (s.withFetchWord nbits w).delay = 0 := rfl
@[simp] theorem State.withFetchWord_draws (s : State) (nbits w : Nat) : (s.withFetchWord nbits w).draws = s.draws := rfl
@[simp] theorem State.withFetchWord_lastRead (s : State) (nbits w : Nat) : (s.withFetchWord nbits w).lastRead = s.lastRead := rfl

/-! `State.applyReset` -/

@[simp] theorem State.applyReset_ctrlIE (s : State) (asserted : Bool) : (s.applyReset asserted).ctrlIE = false := rfl
@[simp] theorem State.applyReset_phase (s : State) (asserted : Bool) : (s.applyReset asserted).phase = .idle := rfl
@[simp] theorem State.applyReset_done (s : State) (asserted : Bool) : (s.applyReset asserted).done = false := rfl
@[simp] theorem State.applyReset_err (s : State) (asserted : Bool) : (s.applyReset asserted).err = false := rfl
@[simp] theorem State.applyReset_wign (s : State) (asserted : Bool) : (s.applyReset asserted).wign = false := rfl
@[simp] theorem State.applyReset_errcode (s : State) (asserted : Bool) : (s.applyReset asserted).errcode = 0 := rfl
@[simp] theorem State.applyReset_errpos (s : State) (asserted : Bool) : (s.applyReset asserted).errpos = 0 := rfl
@[simp] theorem State.applyReset_nwin (s : State) (asserted : Bool) : (s.applyReset asserted).nwin = 5 := rfl
@[simp] theorem State.applyReset_len (s : State) (asserted : Bool) : (s.applyReset asserted).len = 0 := rfl
@[simp] theorem State.applyReset_outlen (s : State) (asserted : Bool) : (s.applyReset asserted).outlen = 0 := rfl
@[simp] theorem State.applyReset_opk (s : State) (asserted : Bool) : (s.applyReset asserted).opk = .standard := rfl
@[simp] theorem State.applyReset_opv (s : State) (asserted : Bool) : (s.applyReset asserted).opv = 0 := rfl
@[simp] theorem State.applyReset_resk (s : State) (asserted : Bool) : (s.applyReset asserted).resk = .standard := rfl
@[simp] theorem State.applyReset_resv (s : State) (asserted : Bool) : (s.applyReset asserted).resv = 0 := rfl
@[simp] theorem State.applyReset_jePrio (s : State) (asserted : Bool) : (s.applyReset asserted).jePrio = 0 := rfl
@[simp] theorem State.applyReset_jePgn (s : State) (asserted : Bool) : (s.applyReset asserted).jePgn = 0 := rfl
@[simp] theorem State.applyReset_jeSa (s : State) (asserted : Bool) : (s.applyReset asserted).jeSa = 0 := rfl
@[simp] theorem State.applyReset_jd (s : State) (asserted : Bool) : (s.applyReset asserted).jd = JdRegs.zero := rfl
@[simp] theorem State.applyReset_frame (s : State) (asserted : Bool) : (s.applyReset asserted).frame = FrameRegs.zero := rfl
@[simp] theorem State.applyReset_mem (s : State) (asserted : Bool) : (s.applyReset asserted).mem = Memory.afterReset s.cfg s.draws := rfl
@[simp] theorem State.applyReset_inReset (s : State) (asserted : Bool) : (s.applyReset asserted).inReset = asserted := rfl
@[simp] theorem State.applyReset_cfg (s : State) (asserted : Bool) : (s.applyReset asserted).cfg = s.cfg := rfl
@[simp] theorem State.applyReset_inputs (s : State) (asserted : Bool) : (s.applyReset asserted).inputs = s.inputs := rfl
@[simp] theorem State.applyReset_delay (s : State) (asserted : Bool) : (s.applyReset asserted).delay = 0 := rfl
@[simp] theorem State.applyReset_draws (s : State) (asserted : Bool) : (s.applyReset asserted).draws = s.draws + 1 := rfl
@[simp] theorem State.applyReset_lastRead (s : State) (asserted : Bool) : (s.applyReset asserted).lastRead = s.lastRead := rfl

/-! `State.writeCanId` and `State.writeCanDbId` -/

@[simp] theorem State.writeCanId_ctrlIE (s : State) (c : CanId) : (s.writeCanId c).ctrlIE = s.ctrlIE := by cases c <;> rfl
@[simp] theorem State.writeCanId_phase (s : State) (c : CanId) : (s.writeCanId c).phase = s.phase := by cases c <;> rfl
@[simp] theorem State.writeCanId_done (s : State) (c : CanId) : (s.writeCanId c).done = s.done := by cases c <;> rfl
@[simp] theorem State.writeCanId_err (s : State) (c : CanId) : (s.writeCanId c).err = s.err := by cases c <;> rfl
@[simp] theorem State.writeCanId_wign (s : State) (c : CanId) : (s.writeCanId c).wign = s.wign := by cases c <;> rfl
@[simp] theorem State.writeCanId_errcode (s : State) (c : CanId) : (s.writeCanId c).errcode = s.errcode := by cases c <;> rfl
@[simp] theorem State.writeCanId_errpos (s : State) (c : CanId) : (s.writeCanId c).errpos = s.errpos := by cases c <;> rfl
@[simp] theorem State.writeCanId_nwin (s : State) (c : CanId) : (s.writeCanId c).nwin = s.nwin := by cases c <;> rfl
@[simp] theorem State.writeCanId_len (s : State) (c : CanId) : (s.writeCanId c).len = s.len := by cases c <;> rfl
@[simp] theorem State.writeCanId_outlen (s : State) (c : CanId) : (s.writeCanId c).outlen = s.outlen := by cases c <;> rfl
@[simp] theorem State.writeCanId_opk (s : State) (c : CanId) : (s.writeCanId c).opk = s.opk := by cases c <;> rfl
@[simp] theorem State.writeCanId_opv (s : State) (c : CanId) : (s.writeCanId c).opv = s.opv := by cases c <;> rfl
@[simp] theorem State.writeCanId_jePrio (s : State) (c : CanId) : (s.writeCanId c).jePrio = s.jePrio := by cases c <;> rfl
@[simp] theorem State.writeCanId_jePgn (s : State) (c : CanId) : (s.writeCanId c).jePgn = s.jePgn := by cases c <;> rfl
@[simp] theorem State.writeCanId_jeSa (s : State) (c : CanId) : (s.writeCanId c).jeSa = s.jeSa := by cases c <;> rfl
@[simp] theorem State.writeCanId_jd (s : State) (c : CanId) : (s.writeCanId c).jd = s.jd := by cases c <;> rfl
@[simp] theorem State.writeCanId_frame (s : State) (c : CanId) : (s.writeCanId c).frame = s.frame := by cases c <;> rfl
@[simp] theorem State.writeCanId_mem (s : State) (c : CanId) : (s.writeCanId c).mem = s.mem := by cases c <;> rfl
@[simp] theorem State.writeCanId_inReset (s : State) (c : CanId) : (s.writeCanId c).inReset = s.inReset := by cases c <;> rfl
@[simp] theorem State.writeCanId_cfg (s : State) (c : CanId) : (s.writeCanId c).cfg = s.cfg := by cases c <;> rfl
@[simp] theorem State.writeCanId_inputs (s : State) (c : CanId) : (s.writeCanId c).inputs = s.inputs := by cases c <;> rfl
@[simp] theorem State.writeCanId_delay (s : State) (c : CanId) : (s.writeCanId c).delay = s.delay := by cases c <;> rfl
@[simp] theorem State.writeCanId_draws (s : State) (c : CanId) : (s.writeCanId c).draws = s.draws := by cases c <;> rfl
@[simp] theorem State.writeCanId_lastRead (s : State) (c : CanId) : (s.writeCanId c).lastRead = s.lastRead := by cases c <;> rfl
@[simp] theorem State.writeCanDbId_ctrlIE (s : State) (c : CanDbId) : (s.writeCanDbId c).ctrlIE = s.ctrlIE := by cases c <;> rfl
@[simp] theorem State.writeCanDbId_phase (s : State) (c : CanDbId) : (s.writeCanDbId c).phase = s.phase := by cases c <;> rfl
@[simp] theorem State.writeCanDbId_done (s : State) (c : CanDbId) : (s.writeCanDbId c).done = s.done := by cases c <;> rfl
@[simp] theorem State.writeCanDbId_err (s : State) (c : CanDbId) : (s.writeCanDbId c).err = s.err := by cases c <;> rfl
@[simp] theorem State.writeCanDbId_wign (s : State) (c : CanDbId) : (s.writeCanDbId c).wign = s.wign := by cases c <;> rfl
@[simp] theorem State.writeCanDbId_errcode (s : State) (c : CanDbId) : (s.writeCanDbId c).errcode = s.errcode := by cases c <;> rfl
@[simp] theorem State.writeCanDbId_errpos (s : State) (c : CanDbId) : (s.writeCanDbId c).errpos = s.errpos := by cases c <;> rfl
@[simp] theorem State.writeCanDbId_nwin (s : State) (c : CanDbId) : (s.writeCanDbId c).nwin = s.nwin := by cases c <;> rfl
@[simp] theorem State.writeCanDbId_len (s : State) (c : CanDbId) : (s.writeCanDbId c).len = s.len := by cases c <;> rfl
@[simp] theorem State.writeCanDbId_outlen (s : State) (c : CanDbId) : (s.writeCanDbId c).outlen = s.outlen := by cases c <;> rfl
@[simp] theorem State.writeCanDbId_opk (s : State) (c : CanDbId) : (s.writeCanDbId c).opk = s.opk := by cases c <;> rfl
@[simp] theorem State.writeCanDbId_opv (s : State) (c : CanDbId) : (s.writeCanDbId c).opv = s.opv := by cases c <;> rfl
@[simp] theorem State.writeCanDbId_jePrio (s : State) (c : CanDbId) : (s.writeCanDbId c).jePrio = s.jePrio := by cases c <;> rfl
@[simp] theorem State.writeCanDbId_jePgn (s : State) (c : CanDbId) : (s.writeCanDbId c).jePgn = s.jePgn := by cases c <;> rfl
@[simp] theorem State.writeCanDbId_jeSa (s : State) (c : CanDbId) : (s.writeCanDbId c).jeSa = s.jeSa := by cases c <;> rfl
@[simp] theorem State.writeCanDbId_jd (s : State) (c : CanDbId) : (s.writeCanDbId c).jd = s.jd := by cases c <;> rfl
@[simp] theorem State.writeCanDbId_frame (s : State) (c : CanDbId) : (s.writeCanDbId c).frame = s.frame := by cases c <;> rfl
@[simp] theorem State.writeCanDbId_mem (s : State) (c : CanDbId) : (s.writeCanDbId c).mem = s.mem := by cases c <;> rfl
@[simp] theorem State.writeCanDbId_inReset (s : State) (c : CanDbId) : (s.writeCanDbId c).inReset = s.inReset := by cases c <;> rfl
@[simp] theorem State.writeCanDbId_cfg (s : State) (c : CanDbId) : (s.writeCanDbId c).cfg = s.cfg := by cases c <;> rfl
@[simp] theorem State.writeCanDbId_inputs (s : State) (c : CanDbId) : (s.writeCanDbId c).inputs = s.inputs := by cases c <;> rfl
@[simp] theorem State.writeCanDbId_delay (s : State) (c : CanDbId) : (s.writeCanDbId c).delay = s.delay := by cases c <;> rfl
@[simp] theorem State.writeCanDbId_draws (s : State) (c : CanDbId) : (s.writeCanDbId c).draws = s.draws := by cases c <;> rfl
@[simp] theorem State.writeCanDbId_lastRead (s : State) (c : CanDbId) : (s.writeCanDbId c).lastRead = s.lastRead := by cases c <;> rfl

end Sys2Proof.Machine
end

