-- ==== Sys2Proof/Laws/Completion.lean ====
section
/-! SUPPORT. What a completion can do, once: a command's result up to its commit, and the state its completion leaves
(60_exceptions.md R236). -/

namespace Sys2Proof.Machine

/-- A command up to its commit: the state with its results written, or the error it raises. -/
def commandResult (i : Instr) (s : State) : Except CmdError State :=
  match i with
  | .unstuff => s.runUnstuff
  | .decodeBaseU => s.runDecode false false
  | .decodeBaseS => s.runDecode false true
  | .decodeExtU => s.runDecode true false
  | .decodeExtS => s.runDecode true true
  | .idToDbid => s.runIdToDbid
  | .dbidToId => s.runDbidToId
  | .j1939Decode => s.runJ1939Decode
  | .j1939Encode => s.runJ1939Encode

/-- Every meaning is the completion of its result. -/
theorem exec_eq_conclude (i : Instr) (s : State) : exec i s = s.conclude (commandResult i s) := by cases i <;> rfl

@[simp] theorem State.conclude_ok (s t : State) : s.conclude (.ok t) = .next t.completeOk := rfl

@[simp] theorem State.conclude_error (s : State) (e : CmdError) : s.conclude (.error e) = .next (s.completeError e) := rfl

/-- What a completion that answers a next state did: a success or a failure, and nothing else. -/
theorem State.conclude_cases {s t : State} {r : Except CmdError State} (h : s.conclude r = .next t) :
    (∃ u, r = .ok u ∧ t = u.completeOk) ∨ (∃ e, r = .error e ∧ t = s.completeError e) := by
  cases r with
  | ok u => exact .inl ⟨u, rfl, by simpa using h.symm⟩
  | error e => exact .inr ⟨e, rfl, by simpa using h.symm⟩

/-- The same of a command. -/
theorem exec_cases {i : Instr} {s t : State} (h : exec i s = .next t) :
    (∃ u, commandResult i s = .ok u ∧ t = u.completeOk) ∨ (∃ e, commandResult i s = .error e ∧ t = s.completeError e) :=
  State.conclude_cases (by rw [← exec_eq_conclude]; exact h)

/-- No error kind has the success code (60_exceptions.md R230). -/
theorem ErrorKind.code_ne_zero (k : ErrorKind) : k.code ≠ 0 := by cases k <;> decide

/-- Different kinds have different codes (60_exceptions.md R230). -/
theorem ErrorKind.code_injective (k k' : ErrorKind) (h : k.code = k'.code) : k = k' := by
  revert h; cases k <;> cases k' <;> decide

/-- UNSTUFF up to its commit: NWIN, then LEN (60_exceptions.md R238). -/
theorem State.runUnstuff_eq (s : State) :
    s.runUnstuff =
      if 1 ≤ s.nwin.toNat ∧ s.nwin.toNat ≤ 31 then
        if s.len.toNat ≤ s.cfg.maxBits then .ok (s.writeUnstuffed (unstuff s.inputBits s.nwin.toNat))
        else .error { kind := .operandRange, pos := 0x014 }
      else .error { kind := .operandRange, pos := 0x010 } := by
  unfold State.runUnstuff
  rw [State.windowOperand_eq, State.bitsOperand_eq]
  split_ifs <;> rfl

/-- A DECODE command up to its commit: LEN, then the walk (60_exceptions.md R238). -/
theorem State.runDecode_eq (s : State) (ext stuffed : Bool) :
    s.runDecode ext stuffed =
      if s.len.toNat ≤ s.cfg.maxBits then
        match decodeFrame ext (decodedStream stuffed s.inputBits) with
        | .ok f => .ok { s with frame := f }
        | .error e => .error e
      else .error { kind := .operandRange, pos := 0x014 } := by
  unfold State.runDecode
  rw [State.bitsOperand_eq]
  split_ifs with h
  · change (decodeFrame ext (decodedStream stuffed s.inputBits)).bind _ = _
    cases decodeFrame ext (decodedStream stuffed s.inputBits) <;> rfl
  · rfl

/-- A walk's result as a command result: the error, or the state with the F_* registers written. -/
theorem State.runDecode_cases (s : State) (ext stuffed : Bool) :
    (∃ f, s.len.toNat ≤ s.cfg.maxBits ∧ decodeFrame ext (decodedStream stuffed s.inputBits) = .ok f ∧
      s.runDecode ext stuffed = .ok { s with frame := f }) ∨
    (∃ e, s.len.toNat ≤ s.cfg.maxBits ∧ decodeFrame ext (decodedStream stuffed s.inputBits) = .error e ∧
      s.runDecode ext stuffed = .error e) ∨
    (s.cfg.maxBits < s.len.toNat ∧ s.runDecode ext stuffed = .error { kind := .operandRange, pos := 0x014 }) := by
  rw [State.runDecode_eq]
  by_cases h : s.len.toNat ≤ s.cfg.maxBits
  · simp only [if_pos h]
    cases hd : decodeFrame ext (decodedStream stuffed s.inputBits) with
    | ok f => exact .inl ⟨f, h, rfl, rfl⟩
    | error e => exact .inr (.inl ⟨e, h, rfl, rfl⟩)
  · simp only [if_neg h]; exact .inr (.inr ⟨by omega, trivial⟩)

end Sys2Proof.Machine
end

