-- ==== Sys2Proof/Laws/Destuffer.lean ====
section
/-! SUPPORT. The destuffer and the stuffer as recursions over the input, and their lengths. -/

namespace Sys2Proof.Machine

/-- The output of a step is the output so far with the bit or without it. -/
theorem Destuffer.step_out (n L : Nat) (d : Destuffer) (b : Bool) :
    (Destuffer.step n L d b).out = if d.drops n L then d.out else d.out ++ [b] := rfl

/-- The bits the destuffer keeps from a given window and index on. -/
def keptFrom (n L : Nat) (W : Bits) (j : Nat) (x : Bits) : Bits :=
  match x with
  | [] => []
  | b :: rest =>
    if !exempt j L && windowFull n W && windowUniform W then keptFrom n L (windowPush n W b) (j + 1) rest
    else b :: keptFrom n L (windowPush n W b) (j + 1) rest

theorem keptFrom_cons (n L : Nat) (W : Bits) (j : Nat) (b : Bool) (x : Bits) :
    keptFrom n L W j (b :: x) =
      if !exempt j L && windowFull n W && windowUniform W then keptFrom n L (windowPush n W b) (j + 1) x
      else b :: keptFrom n L (windowPush n W b) (j + 1) x := rfl

/-- Running the state machine appends the kept bits to the output. -/
theorem foldl_step_out (n L : Nat) (x : Bits) (d : Destuffer) :
    (x.foldl (Destuffer.step n L) d).out = d.out ++ keptFrom n L d.window d.index x := by
  induction x generalizing d with
  | nil => simp [keptFrom]
  | cons b x ih =>
    rw [List.foldl_cons, ih, keptFrom_cons]
    by_cases h : (!exempt d.index L && windowFull n d.window && windowUniform d.window) = true
    · simp [Destuffer.step, Destuffer.drops, h]
    · simp only [Bool.not_eq_true] at h
      simp [Destuffer.step, Destuffer.drops, h]

/-- The destuffer as a recursion over the input. -/
theorem unstuff_eq_keptFrom (x : Bits) (n : Nat) : unstuff x n = keptFrom n x.length [] 0 x := by
  rw [unstuff, foldl_step_out]; simp [Destuffer.init]

theorem keptFrom_sublist (n L : Nat) (W : Bits) (j : Nat) (x : Bits) : (keptFrom n L W j x).Sublist x := by
  induction x generalizing W j with
  | nil => simp [keptFrom]
  | cons b x ih =>
    rw [keptFrom_cons]
    split_ifs
    · exact (ih _ _).trans (List.sublist_cons_self b x)
    · exact (ih _ _).cons_cons b

/-- The output is the input without some bits, in order (40_destuffer.md R113). -/
theorem unstuff_sublist (x : Bits) (n : Nat) : (unstuff x n).Sublist x := by
  rw [unstuff_eq_keptFrom]; exact keptFrom_sublist _ _ _ _ _

/-- A push keeps the window within its width (40_destuffer.md R110). -/
theorem windowPush_length_le (n : Nat) (W : Bits) (b : Bool) (hn : 1 ≤ n) (h : W.length ≤ n) :
    (windowPush n W b).length ≤ n := by
  unfold windowPush
  split_ifs <;> simp <;> omega

end Sys2Proof.Machine
end

