-- ==== Sys2Proof/Laws/Memory.lean ====
section
/-! SUPPORT. The laws of the buffer memory: what a patch reads as, that it keeps the canonical form, and read after
write for words and buffer bits. -/

namespace Sys2Proof.Machine

theorem Memory.byte_cons (c : Host.Cell) (m : Memory) (a : Nat) :
    Memory.byte (c :: m) a = if c.1 = a then some c.2 else Memory.byte m a := rfl

/-- Everything a patch does to a read. -/
@[simp] theorem Memory.byte_patch (m : Memory) (f : Nat → Option Byte) (a : Nat) :
    (m.patch f).byte a = (m.byte a).map fun b => (f a).getD b := by
  induction m with
  | nil => rfl
  | cons c m ih =>
    have h : Memory.patch (c :: m) f = (c.1, (f c.1).getD c.2) :: Memory.patch m f := rfl
    rw [h, Memory.byte_cons, Memory.byte_cons, ih]
    by_cases hc : c.1 = a <;> simp [hc]

/-- A patch keeps every address. -/
@[simp] theorem Memory.patch_addrs (m : Memory) (f : Nat → Option Byte) :
    (m.patch f).map Prod.fst = m.map Prod.fst := by
  simp [Memory.patch, Function.comp_def]

/-- A patch keeps the canonical form. -/
theorem Memory.wf_patch (m : Memory) (f : Nat → Option Byte) : (m.patch f).wf ↔ m.wf := by
  unfold Memory.wf; rw [Memory.patch_addrs]

@[simp] theorem Memory.setWord_addrs (m : Memory) (a : Nat) (v : Word) :
    (m.setWord a v).map Prod.fst = m.map Prod.fst := Memory.patch_addrs _ _

theorem Memory.wf_setWord (m : Memory) (a : Nat) (v : Word) : (m.setWord a v).wf ↔ m.wf := Memory.wf_patch _ _

@[simp] theorem Memory.fillOutbuf_addrs (m : Memory) (n : Nat) (x : Bits) :
    (m.fillOutbuf n x).map Prod.fst = m.map Prod.fst := Memory.patch_addrs _ _

theorem Memory.wf_fillOutbuf (m : Memory) (n : Nat) (x : Bits) : (m.fillOutbuf n x).wf ↔ m.wf := Memory.wf_patch _ _

/-- A byte is there exactly when its address is listed. -/
theorem Memory.byte_isSome (m : Memory) (a : Nat) : (m.byte a).isSome = true ↔ a ∈ m.map Prod.fst := by
  induction m with
  | nil => simp [Memory.byte]
  | cons c m ih =>
    rw [Memory.byte_cons]
    by_cases hc : c.1 = a
    · simp [hc]
    · simp [hc, ih, Ne.symm hc]

/-- A listed byte of a patched memory. -/
theorem Memory.byteAt_patch (m : Memory) (f : Nat → Option Byte) (a : Nat) (h : a ∈ m.map Prod.fst) :
    (m.patch f).byteAt a = (f a).getD (m.byteAt a) := by
  obtain ⟨b, hb⟩ := Option.isSome_iff_exists.mp ((m.byte_isSome a).mpr h)
  simp [Memory.byteAt, hb]

/-- A byte a patch leaves alone. -/
theorem Memory.byteAt_patch_none (m : Memory) (f : Nat → Option Byte) (a : Nat) (h : f a = none) :
    (m.patch f).byteAt a = m.byteAt a := by
  simp [Memory.byteAt, h]

/-- The four lanes of a word put together again. -/
theorem laneByte_append (v : Word) : laneByte v 3 ++ laneByte v 2 ++ laneByte v 1 ++ laneByte v 0 = v := by
  apply BitVec.eq_of_getLsbD_eq
  intro i hi
  simp only [laneByte, BitVec.getLsbD_append, BitVec.getLsbD_extractLsb']
  interval_cases i <;> simp

/-- A word written reads back. -/
theorem Memory.word_setWord_same (m : Memory) (a : Nat) (v : Word)
    (h : ∀ k, k < 4 → a + k ∈ m.map Prod.fst) : (m.setWord a v).word a = v := by
  have hb : ∀ k, k < 4 → (m.setWord a v).byteAt (a + k) = laneByte v k := by
    intro k hk
    rw [Memory.setWord, Memory.byteAt_patch _ _ _ (h k hk)]
    simp [hk]
  have h0 := hb 0 (by omega)
  rw [Nat.add_zero] at h0
  rw [Memory.word, hb 3 (by omega), hb 2 (by omega), hb 1 (by omega), h0]
  exact laneByte_append v

/-- A word elsewhere is unchanged. -/
theorem Memory.word_setWord_other (m : Memory) (a b : Nat) (v : Word) (h : b + 4 ≤ a ∨ a + 4 ≤ b) :
    (m.setWord a v).word b = m.word b := by
  have hb : ∀ k, k < 4 → (m.setWord a v).byteAt (b + k) = m.byteAt (b + k) := by
    intro k hk
    refine Memory.byteAt_patch_none _ _ _ ?_
    rw [if_neg]; omega
  have h0 := hb 0 (by omega)
  rw [Nat.add_zero] at h0
  rw [Memory.word, Memory.word, hb 3 (by omega), hb 2 (by omega), hb 1 (by omega), h0]

/-- A byte outside the word is unchanged. -/
theorem Memory.byte_setWord_other (m : Memory) (a b : Nat) (v : Word) (h : ¬ (a ≤ b ∧ b < a + 4)) :
    (m.setWord a v).byte b = m.byte b := by
  rw [Memory.setWord, Memory.byte_patch, if_neg h]; simp

/-- A byte outside OUTBUF is unchanged when OUTBUF is filled. -/
theorem Memory.byte_fillOutbuf_other (m : Memory) (n : Nat) (x : Bits) (a : Nat)
    (h : ¬ (outbufBase ≤ a ∧ a < outbufBase + n / 8)) : (m.fillOutbuf n x).byte a = m.byte a := by
  rw [Memory.fillOutbuf, Memory.byte_patch, if_neg h]; simp

/-- A word of a filled OUTBUF. -/
theorem Memory.word_fillOutbuf (m : Memory) (n : Nat) (x : Bits) (k : Nat) (hk : 4 * k + 4 ≤ n / 8)
    (h : ∀ j, j < 4 → outbufBase + 4 * k + j ∈ m.map Prod.fst) :
    (m.fillOutbuf n x).word (outbufBase + 4 * k) = packWord x k := by
  have hb : ∀ j, j < 4 → (m.fillOutbuf n x).byteAt (outbufBase + 4 * k + j) = laneByte (packWord x k) j := by
    intro j hj
    rw [Memory.fillOutbuf, Memory.byteAt_patch _ _ _ (h j hj), if_pos (by omega)]
    have h1 : (outbufBase + 4 * k + j - outbufBase) / 4 = k := by omega
    have h2 : (outbufBase + 4 * k + j - outbufBase) % 4 = j := by omega
    rw [h1, h2]; rfl
  have h0 := hb 0 (by omega)
  rw [Nat.add_zero] at h0
  rw [Memory.word, hb 3 (by omega), hb 2 (by omega), hb 1 (by omega), h0]
  exact laneByte_append _

/-- The buffer addresses (20_memory.md R75). -/
theorem mem_bufferAddrs (cfg : Config) (a : Nat) :
    a ∈ bufferAddrs cfg ↔ (0x100 ≤ a ∧ a < 0x100 + cfg.maxBits / 8) ∨ (0x200 ≤ a ∧ a < 0x200 + cfg.maxBits / 8) := by
  simp only [bufferAddrs, List.mem_append, List.mem_map, List.mem_range]
  constructor
  · rintro (⟨k, hk, rfl⟩ | ⟨k, hk, rfl⟩) <;> omega
  · rintro (h | h)
    · exact .inl ⟨a - 0x100, by omega, by omega⟩
    · exact .inr ⟨a - 0x200, by omega, by omega⟩

@[simp] theorem Memory.afterReset_addrs (cfg : Config) (draw : Nat) :
    (Memory.afterReset cfg draw).map Prod.fst = bufferAddrs cfg := by
  simp [Memory.afterReset, Function.comp_def]

/-- The buffer addresses rise strictly for every legal capacity. -/
theorem bufferAddrs_sorted (cfg : Config) (h : cfg.maxBits ≤ 2048) : (bufferAddrs cfg).Pairwise (· < ·) := by
  have key : ∀ b, ((List.range (cfg.maxBits / 8)).map (b + ·)).Pairwise (· < ·) := by
    intro b
    rw [List.pairwise_map]
    exact List.pairwise_lt_range.imp (by omega)
  refine List.pairwise_append.mpr ⟨key _, key _, ?_⟩
  simp only [List.mem_map, List.mem_range]
  rintro a ⟨k, hk, rfl⟩ b ⟨j, hj, rfl⟩
  omega

/-- The memory after reset is in its canonical form. -/
theorem Memory.wf_afterReset (cfg : Config) (draw : Nat) (h : cfg.maxBits ≤ 2048) : (Memory.afterReset cfg draw).wf := by
  unfold Memory.wf; rw [Memory.afterReset_addrs]; exact bufferAddrs_sorted cfg h

end Sys2Proof.Machine
end

