-- ==== Sys2Proof/Laws/PerInstr.lean ====
section
/-! SUPPORT. The per-instruction family Encoding: each command's word is its code of 30_encoding.md R92, and the decoder
reads it back through the opcode-table entry point. -/

namespace Sys2Proof.Laws

/-- The word of a command lies in the legal range 1 to 9 (30_encoding.md R90), and the opcode-table entry point reads the
command from its 32 bits. -/
def Encoding.Statement (i : Instr) : Prop :=
  1 ≤ (encode i).toNat ∧ (encode i).toNat ≤ 9 ∧ decodeTableWord 32 (encode i).toNat = some i

theorem Encoding.unstuff : Encoding.Statement .unstuff := by unfold Encoding.Statement; decide
theorem Encoding.decodeBaseU : Encoding.Statement .decodeBaseU := by unfold Encoding.Statement; decide
theorem Encoding.decodeBaseS : Encoding.Statement .decodeBaseS := by unfold Encoding.Statement; decide
theorem Encoding.decodeExtU : Encoding.Statement .decodeExtU := by unfold Encoding.Statement; decide
theorem Encoding.decodeExtS : Encoding.Statement .decodeExtS := by unfold Encoding.Statement; decide
theorem Encoding.idToDbid : Encoding.Statement .idToDbid := by unfold Encoding.Statement; decide
theorem Encoding.dbidToId : Encoding.Statement .dbidToId := by unfold Encoding.Statement; decide
theorem Encoding.j1939Decode : Encoding.Statement .j1939Decode := by unfold Encoding.Statement; decide
theorem Encoding.j1939Encode : Encoding.Statement .j1939Encode := by unfold Encoding.Statement; decide

end Sys2Proof.Laws
end

