-- ==== Sys2Proof/Laws/Step.lean ====
section
/-! SUPPORT. What a port access, an input and a step can do, each said once. -/

namespace Sys2Proof.Machine

/-- A register's offset reaches that register, whatever the capacity. -/
theorem portTarget_reg (cfg : Config) (r : Reg) : portTarget cfg .word (BitVec.ofNat 12 r.offset) = .ok (.reg r) := by
  have h : r.offset < 0x100 ∧ r.offset % 4 = 0 ∧ (Reg.all.find? fun q => q.offset == r.offset) = some r := by
    cases r <;> decide
  obtain ⟨h1, h2, h3⟩ := h
  have e : (BitVec.ofNat 12 r.offset).toNat = r.offset := by simp; omega
  have n1 : ¬ (0x100 ≤ r.offset ∧ r.offset < 0x100 + cfg.maxBits / 8) := by omega
  have n2 : ¬ (0x200 ≤ r.offset ∧ r.offset < 0x200 + cfg.maxBits / 8) := by omega
  simp [portTarget, targetAt, bitbufBase, outbufBase, e, h2, h3, n1, n2]

/-- Outside reset an IDLE block carries out the next input. -/
theorem step_idle {s : State} {e : Input} {rest : List Input} (hr : s.inReset = false) (hp : s.phase = .idle)
    (hi : s.inputs = e :: rest) : step s = ({ s with inputs := rest } : State).acceptInput e := by
  simp [step, hr, hp, hi]

/-- A running code is one of the nine commands or completes with ILLEGAL_OP. -/
theorem runCommand_cases {op : Word} {s : State} {o : Host.Outcome State Fault Refusal} (h : runCommand op s = o) :
    (∃ i, decode op = .ok i ∧ exec i s = o) ∨ (∃ e, decode op = .error e ∧ o = .next s.completeIllegal) := by
  unfold runCommand at h
  cases hd : decode op with
  | ok i => rw [hd] at h; exact .inl ⟨i, rfl, h⟩
  | error e => rw [hd] at h; exact .inr ⟨e, rfl, h.symm⟩

/-- What an input that is carried out can have done. -/
theorem acceptInput_cases {s t : State} {e : Input} (h : s.acceptInput e = .next t) :
    (∃ w a v, e = .read w a ∧ s.portRead w a = (v, none) ∧ t = { s with lastRead := some v }) ∨
    (∃ w a v g, e = .write w a v ∧ portTarget s.cfg w a = .ok g ∧ s.phase.isBusy = true ∧ t = s.ignoreWrite) ∨
    (∃ w a v g, e = .write w a v ∧ portTarget s.cfg w a = .ok g ∧ s.phase.isBusy = false ∧ t = s.writeTarget g v) ∨
    (e = .waitIdle ∧ t = { s with lastRead := some s.statusWord, inputs := .waitIdle :: s.inputs }) ∨
    (e = .waitIdle ∧ t = { s with lastRead := some s.statusWord }) ∨
    (∃ b, e = .reset b ∧ t = s.applyReset b) := by
  cases e with
  | read w a =>
    left
    rcases hp : s.portRead w a with ⟨v, r⟩
    cases r with
    | none => simp only [State.acceptInput, hp] at h; exact ⟨w, a, v, rfl, hp, by simpa using h.symm⟩
    | some r => simp [State.acceptInput, hp] at h
  | write w a v =>
    right
    simp only [State.acceptInput, State.portWrite] at h
    cases hp : portTarget s.cfg w a with
    | error r => rw [hp] at h; simp at h
    | ok g =>
      rw [hp] at h
      cases hb : s.phase.isBusy with
      | true => left; rw [hb] at h; exact ⟨w, a, v, g, rfl, hp, rfl, by simpa using h.symm⟩
      | false => right; left; rw [hb] at h; exact ⟨w, a, v, g, rfl, hp, rfl, by simpa using h.symm⟩
  | waitIdle =>
    right; right; right
    simp only [State.acceptInput] at h
    split_ifs at h
    · left; exact ⟨rfl, by simpa using h.symm⟩
    · right; left; exact ⟨rfl, by simpa using h.symm⟩
  | reset b => right; right; right; right; right; exact ⟨b, rfl, by simpa [State.acceptInput] using h.symm⟩

/-- Everything a step that answers a next state can have done. -/
theorem step_cases {s t : State} (h : step s = .next t) :
    (t = s ∧ s.inputs = [] ∧ (s.inReset = true ∨ s.phase = .idle)) ∨
    (∃ e rest, s.inReset = true ∧ s.inputs = e :: rest ∧ t = ({ s with inputs := rest } : State).inputInReset e) ∨
    (∃ e rest, s.inReset = false ∧ s.phase = .idle ∧ s.inputs = e :: rest ∧
      ({ s with inputs := rest } : State).acceptInput e = .next t) ∨
    (∃ op e rest d, s.inReset = false ∧ s.phase = .busy op ∧ s.inputs = e :: rest ∧ s.delay = d + 1 ∧
      ({ s with inputs := rest, delay := d } : State).acceptInput e = .next t) ∨
    (∃ op, s.inReset = false ∧ s.phase = .busy op ∧ (s.delay = 0 ∨ s.inputs = []) ∧ runCommand op s = .next t) := by
  unfold step at h
  cases hr : s.inReset with
  | true =>
    rw [hr, if_pos rfl] at h
    cases hi : s.inputs with
    | nil => rw [hi] at h; left; exact ⟨by simpa using h.symm, rfl, .inl rfl⟩
    | cons e rest => rw [hi] at h; right; left; exact ⟨e, rest, rfl, rfl, by simpa using h.symm⟩
  | false =>
    rw [hr, if_neg (by decide)] at h
    cases hp : s.phase with
    | idle =>
      rw [hp] at h
      cases hi : s.inputs with
      | nil => rw [hi] at h; left; exact ⟨by simpa using h.symm, rfl, .inr rfl⟩
      | cons e rest => rw [hi] at h; right; right; left; exact ⟨e, rest, rfl, rfl, rfl, h⟩
    | busy op =>
      rw [hp] at h
      right; right; right
      cases hd : s.delay with
      | zero => rw [hd] at h; right; exact ⟨op, rfl, rfl, .inl rfl, h⟩
      | succ d =>
        rw [hd] at h
        cases hi : s.inputs with
        | nil => rw [hi] at h; right; exact ⟨op, rfl, rfl, .inr rfl, h⟩
        | cons e rest => rw [hi] at h; left; exact ⟨op, e, rest, d, rfl, rfl, rfl, rfl, h⟩

end Sys2Proof.Machine
end

