-- ==== Sys2Proof/Laws/Walk.lean ====
section
/-! SUPPORT. What one row of a layout does to the walk, once (41_frame_decoder.md R141, R142). -/

namespace Sys2Proof.Machine

theorem takeField_ok (D : Bits) (cur w : Nat) (k : ErrorKind) (h : cur + w ≤ D.length) :
    takeField D cur w k = .ok (slice D cur w) := by rw [takeField, if_pos h]

theorem takeField_error (D : Bits) (cur w : Nat) (k : ErrorKind) (h : D.length < cur + w) :
    takeField D cur w k = .error { kind := k, pos := cur } := by rw [takeField, if_neg (by omega)]

/-- Whether a field's bits hold its constant, if it has one (41_frame_decoder.md R142). -/
def constantHolds (must : Option (Nat × ErrorKind)) (x : Bits) : Prop := ∀ c k, must = some (c, k) → val x = c

theorem checkConstant_ok (must : Option (Nat × ErrorKind)) (x : Bits) (p : Nat) (h : constantHolds must x) :
    checkConstant must x p = .ok () := by
  cases must with
  | none => rfl
  | some m =>
    obtain ⟨c, k⟩ := m
    have hv : val x = c := h c k rfl
    simp [checkConstant, hv]

theorem checkConstant_error (c : Nat) (k : ErrorKind) (x : Bits) (p : Nat) (h : val x ≠ c) :
    checkConstant (some (c, k)) x p = .error { kind := k, pos := p } := by
  rw [checkConstant, beq_false_of_ne h, require_false]

/-- A row whose field is there and holds its constant passes on to the next. -/
theorem walk_pass (D : Bits) (spec : FieldSpec) (rest : List FieldSpec) (cur : Nat) (acc : Fields)
    (h : cur + spec.size acc ≤ D.length) (hc : constantHolds spec.must (slice D cur (spec.size acc))) :
    walk D (spec :: rest) cur acc =
      walk D rest (cur + spec.size acc) (acc ++ [(spec.field, slice D cur (spec.size acc))]) := by
  rw [walk, takeField_ok _ _ _ _ h]
  simp only [checkConstant_ok _ _ _ hc]

/-- A row whose field is missing ends the walk with its missing error. -/
theorem walk_missing (D : Bits) (spec : FieldSpec) (rest : List FieldSpec) (cur : Nat) (acc : Fields)
    (h : D.length < cur + spec.size acc) :
    walk D (spec :: rest) cur acc = .error { kind := spec.missing, pos := cur } := by
  rw [walk, takeField_error _ _ _ _ h]

/-- A row whose field is there with a wrong constant ends the walk with its must-be error. -/
theorem walk_wrong (D : Bits) (spec : FieldSpec) (rest : List FieldSpec) (cur : Nat) (acc : Fields) (c : Nat)
    (k : ErrorKind) (hm : spec.must = some (c, k)) (h : cur + spec.size acc ≤ D.length)
    (hc : val (slice D cur (spec.size acc)) ≠ c) :
    walk D (spec :: rest) cur acc = .error { kind := k, pos := cur } := by
  rw [walk, takeField_ok _ _ _ _ h]
  simp only [hm, checkConstant_error _ _ _ _ hc]

/-- Everything a walk that goes on past a row did. -/
theorem walk_ok_cons {D : Bits} {spec : FieldSpec} {rest : List FieldSpec} {cur : Nat} {acc : Fields}
    {r : Fields × Nat} (h : walk D (spec :: rest) cur acc = .ok r) :
    cur + spec.size acc ≤ D.length ∧ constantHolds spec.must (slice D cur (spec.size acc)) ∧
    walk D rest (cur + spec.size acc) (acc ++ [(spec.field, slice D cur (spec.size acc))]) = .ok r := by
  by_cases hl : cur + spec.size acc ≤ D.length
  · by_cases hc : constantHolds spec.must (slice D cur (spec.size acc))
    · rw [walk_pass _ _ _ _ _ hl hc] at h; exact ⟨hl, hc, h⟩
    · simp only [constantHolds, not_forall] at hc
      obtain ⟨c, k, hm, hv⟩ := hc
      rw [walk_wrong _ _ _ _ _ c k hm hl hv] at h
      cases h
  · rw [walk_missing _ _ _ _ _ (by omega)] at h
    cases h

/-- Everything a walk that fails did: the row's field is missing or wrong, or a later row fails. -/
theorem walk_error_cons {D : Bits} {spec : FieldSpec} {rest : List FieldSpec} {cur : Nat} {acc : Fields}
    {e : CmdError} (h : walk D (spec :: rest) cur acc = .error e) :
    (D.length < cur + spec.size acc ∧ e = { kind := spec.missing, pos := cur }) ∨
    (cur + spec.size acc ≤ D.length ∧
      ∃ c k, spec.must = some (c, k) ∧ val (slice D cur (spec.size acc)) ≠ c ∧ e = { kind := k, pos := cur }) ∨
    (cur + spec.size acc ≤ D.length ∧ constantHolds spec.must (slice D cur (spec.size acc)) ∧
      walk D rest (cur + spec.size acc) (acc ++ [(spec.field, slice D cur (spec.size acc))]) = .error e) := by
  by_cases hl : cur + spec.size acc ≤ D.length
  · by_cases hc : constantHolds spec.must (slice D cur (spec.size acc))
    · rw [walk_pass _ _ _ _ _ hl hc] at h; exact .inr (.inr ⟨hl, hc, h⟩)
    · simp only [constantHolds, not_forall] at hc
      obtain ⟨c, k, hm, hv⟩ := hc
      rw [walk_wrong _ _ _ _ _ c k hm hl hv] at h
      cases h
      exact .inr (.inl ⟨hl, c, k, hm, hv, rfl⟩)
  · rw [walk_missing _ _ _ _ _ (by omega)] at h
    cases h
    exact .inl ⟨by omega, rfl⟩

/-- A successful decode is a successful walk. -/
theorem decodeFrame_ok {ext : Bool} {D : Bits} {r : FrameRegs} (h : decodeFrame ext D = .ok r) :
    ∃ fs fin, walk D (frameLayout ext) 0 [] = .ok (fs, fin) ∧ r = frameRegs ext D fs fin := by
  unfold decodeFrame at h
  cases hw : walk D (frameLayout ext) 0 [] with
  | error e => rw [hw] at h; cases h
  | ok p =>
    rw [hw] at h
    exact ⟨p.1, p.2, rfl, by simpa using h.symm⟩

/-- A failing decode is a failing walk. -/
theorem decodeFrame_error {ext : Bool} {D : Bits} {e : CmdError} :
    decodeFrame ext D = .error e ↔ walk D (frameLayout ext) 0 [] = .error e := by
  unfold decodeFrame
  cases hw : walk D (frameLayout ext) 0 [] with
  | error e' => simp
  | ok p => simp

end Sys2Proof.Machine
end

