-- ==== Sys2Proof/Tests/Slice0.lean ====
section
/-! SUPPORT. Tests of the model against words and vectors written out from the spec, and for every statement with
hypotheses a witness: a concrete state and operands that meet them, each clause at a boundary of its range. -/

namespace Sys2Proof.Tests

open Sys2Proof.Machine

set_option Elab.async false

/-! ### States and checks -/

/-- A state just after reset with `x` in BITBUF and its length in LEN. -/
def bitState (x : Bits) : State :=
  { State.reset with
    len := BitVec.ofNat 32 x.length
    mem := (List.range ((x.length + 31) / 32)).foldl (fun m k => m.setWord (0x100 + 4 * k) (packWord x k)) State.reset.mem }

/-- A state just after reset with an identifier operand. -/
def idState (k : IdKind) (v : Word) : State := { State.reset with opk := k, opv := v }

/-- A state just after reset with the J1939_ENCODE operands. -/
def jeState (p g a : Word) : State := { State.reset with jePrio := p, jePgn := g, jeSa := a }

/-- A state that runs the command word `op` and whose next step completes it. -/
def busyState (op : Word) : State := State.reset.enterBusy op

/-- The outcome is a next state of which `p` holds. -/
def nextIs (o : Host.Outcome State Fault Refusal) (p : State → Bool) : Bool :=
  match o with
  | .next t => p t
  | .fault _ => false
  | .refused _ => false

/-- A bit string from its digits. -/
def digits (l : List Nat) : Bits := l.map (· == 1)

/-- Vector F1 of 95_test_vectors.md: the unstuffed base frame (ID 0x014, DLC 1, data 0x01, CRC 0x7753). -/
def f1 : BaseFrame := { id := 0x014, rtr := false, r0 := false, data := [0x01], crc := 0x7753, ackslot := false }

/-- The 55 bits of F1 as 95_test_vectors.md writes them: words 0x0140203D 0xD4EFFE00. -/
def f1Bits : Bits := digits [
  0,0,0,0,0,0,0,1,0,1,0,0,0,0,0,0,0,0,1,0,0,0,0,0,0,0,1,1,1,1,0,
  1,1,1,0,1,0,1,0,0,1,1,1,0,1,1,1,1,1,1,1,1,1,1,1]

/-- The 58 bits of E1c as 95_test_vectors.md writes them: F1 stuffed. -/
def e1cBits : Bits := digits [
  0,0,0,0,0,1,0,0,1,0,1,0,0,0,0,0,1,0,0,0,1,0,0,0,0,0,1,0,0,1,1,1,
  1,0,1,1,1,0,1,0,1,0,0,1,1,1,0,1,1,1,1,1,1,1,1,1,1,1]

/-- Vector F11: the unstuffed extended frame (IDA 0x014, IDB 0x2AAAA, DLC 1, data 0x01, CRC 0x7753). -/
def f11 : ExtFrame :=
  { ida := 0x014, idb := 0x2AAAA, rtr := false, r1 := false, r0 := false, data := [0x01], crc := 0x7753, ackslot := false }

/-- The 75 bits of F11 as 95_test_vectors.md writes them. -/
def f11Bits : Bits := digits [
  0,0,0,0,0,0,0,1,0,1,0,0,1,1,1,0,1,0,1,0,1,0,1,0,1,0,1,0,1,0,1,0,0,0,0,0,0,0,1,0,0,0,0,0,0,0,1,
  1,1,1,0,1,1,1,0,1,0,1,0,0,1,1,1,0,1,1,1,1,1,1,1,1,1,1,1]

/-- The 78 bits of E2 as 95_test_vectors.md writes them: F11 stuffed. -/
def e2Bits : Bits := digits [
  0,0,0,0,0,1,0,0,1,0,1,0,0,1,1,1,0,1,0,1,0,1,0,1,0,1,0,1,0,1,0,1,0,0,0,0,0,1,0,0,1,0,0,0,0,0,1,0,0,1,
  1,1,1,0,1,1,1,0,1,0,1,0,0,1,1,1,0,1,1,1,1,1,1,1,1,1,1,1]

/-! ### Well-formedness: what each check refuses (00_scope.md R6) -/

theorem test_config_wf_default : Config.default.wf = true := by decide
theorem test_config_wf_refuses_not_a_multiple_of_32 : ({ maxBits := 100 } : Config).wf = false := by decide
theorem test_config_wf_refuses_below_32 : ({ maxBits := 0 } : Config).wf = false := by decide
theorem test_config_wf_refuses_above_2048 : ({ maxBits := 2080 } : Config).wf = false := by decide
theorem test_memory_wf_refuses_unsorted : ¬ Memory.wf [(0x101, 0), (0x100, 0)] := by decide
theorem test_memory_wf_refuses_repeats : ¬ Memory.wf [(0x100, 0), (0x100, 1)] := by decide

/-! ### Decoding: words written bit by bit from 30_encoding.md R92 -/

theorem test_decode_unstuff : decode 0b00000000000000000000000000000001 = .ok .unstuff := by decide
theorem test_decode_decodeBaseU : decode 0b00000000000000000000000000000010 = .ok .decodeBaseU := by decide
theorem test_decode_decodeBaseS : decode 0b00000000000000000000000000000011 = .ok .decodeBaseS := by decide
theorem test_decode_decodeExtU : decode 0b00000000000000000000000000000100 = .ok .decodeExtU := by decide
theorem test_decode_decodeExtS : decode 0b00000000000000000000000000000101 = .ok .decodeExtS := by decide
theorem test_decode_idToDbid : decode 0b00000000000000000000000000000110 = .ok .idToDbid := by decide
theorem test_decode_dbidToId : decode 0b00000000000000000000000000000111 = .ok .dbidToId := by decide
theorem test_decode_j1939Decode : decode 0b00000000000000000000000000001000 = .ok .j1939Decode := by decide
theorem test_decode_j1939Encode : decode 0b00000000000000000000000000001001 = .ok .j1939Encode := by decide
/-- Vectors W1 to W3: the whole word must match. -/
theorem test_decode_rejects_by_name :
    decode 0 = .error (.illegalCode 0) ∧ decode 10 = .error (.illegalCode 10) ∧
    decode 0x80000001 = .error (.illegalCode 0x80000001) := by decide
theorem test_decodeBytes_tooShort : decodeBytes [1, 0, 0] = .error .tooShort := by decide
theorem test_decodeBytes_little_endian_lanes : decodeBytes [0x09, 0x00, 0x00, 0x00, 0xFF] = .ok (.j1939Encode, [0xFF]) := by
  decide

/-! ### One step on each command: 95_test_vectors.md -/

/-- Vector U9: n = 5, 24 bits, indices 5 and 10 dropped. -/
theorem test_unstuff_u9 :
    nextIs (exec .unstuff (bitState (digits [0,0,0,0,0,1,1,1,1,1,0] ++ List.replicate 13 true)))
      (fun t => t.statusWord == 0x2 && t.outlen == 22 && t.mem.word 0x200 == 0x07FFFC00 && t.mem.word 0x21C == 0) = true := by
  decide +kernel
/-- Vector U25: NWIN is checked before LEN. -/
theorem test_unstuff_u25 :
    nextIs (exec .unstuff { State.reset with nwin := 0, len := 257 })
      (fun t => t.statusWord == 0x206 && t.errpos == 0x010 && t.outlen == 0) = true := by decide +kernel
/-- Vector F1. -/
theorem test_decodeBaseU_f1 : nextIs (exec .decodeBaseU (bitState f1Bits))
    (fun t => t.statusWord == 0x2 && t.frame ==
      { ext := false, id := 0x14, ida := 0x14, idb := 0, bits := 0x140, dlc := 1, crc := 0x7753, eof := 0x7F, ifs := 0x7,
        fend := 55, dlen := 55, data0 := 0x01000000, data1 := 0, data2 := 0, data3 := 0 }) = true := by decide +kernel
/-- Vector F4: the constant check of SOF comes before the missing check of ID. -/
theorem test_decodeBaseU_f4 : nextIs (exec .decodeBaseU (bitState [true]))
    (fun t => t.statusWord == 0x3006 && t.errpos == 0 && t.frame == FrameRegs.zero) = true := by decide +kernel
/-- Vector E1c. -/
theorem test_decodeBaseS_e1c : nextIs (exec .decodeBaseS (bitState e1cBits))
    (fun t => t.statusWord == 0x2 && t.frame.id == 0x14 && t.frame.crc == 0x7753 && t.frame.dlen == 55) = true := by
  decide +kernel
/-- Vector F7: a cut stuffed frame fails at IDE, not at RTR. -/
theorem test_decodeBaseS_f7 : nextIs (exec .decodeBaseS (bitState (e1cBits.take 13)))
    (fun t => t.statusWord == 0x1406 && t.errpos == 13) = true := by decide +kernel
/-- Vector F11. -/
theorem test_decodeExtU_f11 : nextIs (exec .decodeExtU (bitState f11Bits))
    (fun t => t.statusWord == 0x2 && t.frame ==
      { ext := true, id := 0x0052AAAA, ida := 0x14, idb := 0x2AAAA, bits := 0x14C, dlc := 1, crc := 0x7753, eof := 0x7F,
        ifs := 0x7, fend := 75, dlen := 75, data0 := 0x01000000, data1 := 0, data2 := 0, data3 := 0 }) = true := by
  decide +kernel
/-- Vector F14: a base frame given to the extended decoder. -/
theorem test_decodeExtU_f14 : nextIs (exec .decodeExtU (bitState f1Bits))
    (fun t => t.statusWord == 0x3306 && t.errpos == 12) = true := by decide +kernel
/-- Vector E2. -/
theorem test_decodeExtS_e2 : nextIs (exec .decodeExtS (bitState e2Bits))
    (fun t => t.statusWord == 0x2 && t.frame.id == 0b00000010100101010101010101010 && t.frame.dlen == 75) = true := by
  decide +kernel
/-- Vector F22 at 39 bits. -/
theorem test_decodeExtS_f22 : nextIs (exec .decodeExtS (bitState (stuff (f11Bits.take 39) 5)))
    (fun t => t.statusWord == 0x1A06 && t.errpos == 39) = true := by decide +kernel
/-- Vector I7. -/
theorem test_idToDbid_i7 : nextIs (exec .idToDbid (idState .extended 0x18FF0105))
    (fun t => t.statusWord == 0x2 && t.readReg .resk == 1 && t.resv == 0x98FF0105) = true := by decide +kernel
/-- Vector I3. -/
theorem test_idToDbid_i3 : nextIs (exec .idToDbid (idState .standard 0x800))
    (fun t => t.statusWord == 0x206 && t.errpos == 0x024) = true := by decide +kernel
/-- Vector I13. -/
theorem test_dbidToId_i13 : nextIs (exec .dbidToId (idState .extended 0xFFFFFFFF))
    (fun t => t.statusWord == 0x2 && t.readReg .resk == 1 && t.resv == 0x1FFFFFFF) = true := by decide +kernel
/-- Vector I19. -/
theorem test_j1939Decode_i19 : nextIs (exec .j1939Decode (idState .extended 0x0CF04221))
    (fun t => t.readReg .jdPrio == 3 && t.readReg .jdPgn == 0x0F042 && t.readReg .jdSa == 0x21 &&
      t.readReg .jdPdu == 0x00420005) = true := by decide +kernel
/-- Vector I26: the kind is checked before the range. -/
theorem test_j1939Decode_i26 : nextIs (exec .j1939Decode (idState .standard 0xFFFFFFFF))
    (fun t => t.statusWord == 0x306 && t.errpos == 0x020) = true := by decide +kernel
/-- Vector I28. -/
theorem test_j1939Encode_i28 : nextIs (exec .j1939Encode (jeState 7 0x01111 0x11))
    (fun t => t.statusWord == 0x2 && t.readReg .resk == 1 && t.resv == 0x1C111111) = true := by decide +kernel
/-- Vector I36: JE_PRIO is checked first. -/
theorem test_j1939Encode_i36 : nextIs (exec .j1939Encode (jeState 8 0x40000 0x100))
    (fun t => t.statusWord == 0x206 && t.errpos == 0x030) = true := by decide +kernel

/-! ### The reference functions: 95_test_vectors.md -/

theorem test_reference_frame_f1 : f1.bits = f1Bits ∧ stuff f1Bits 5 = e1cBits := by decide +kernel
theorem test_reference_frame_f11 : f11.bits = f11Bits ∧ stuff f11Bits 5 = e2Bits := by decide +kernel
/-- Vector S10: a stuffing bit counts toward the next run. -/
theorem test_stuff_s10 : stuff (List.replicate 5 true ++ List.replicate 5 false ++ List.replicate 13 true) 5 =
    digits [1,1,1,1,1,0,0,0,0,0,1,0] ++ List.replicate 13 true := by decide +kernel
/-- Vector U21. -/
theorem test_unstuff_u21 : unstuff (digits [0,0,0,1,0,0,1,1,1,0,1,0,1,0,1,0,1,0,1,0,1,0,1]) 3 =
    digits [0,0,0,0,0,1,1,1,1,0,1,0,1,0,1,0,1,0,1,0,1] := by decide +kernel

/-! ### The port: 95_test_vectors.md section 2.4 and program P2 -/

/-- Vector W4: a write while BUSY sets WIGN and nothing else. -/
theorem test_write_while_busy : nextIs (step { busyState 6 with delay := 1, inputs := [.write .word 0x000 1] })
    (fun t => t.wign && !t.ctrlIE && t.phase == .busy 6) = true := by decide +kernel
/-- Vector W6: a write of all ones to STATUS clears DONE and WIGN only. -/
theorem test_status_write_clears :
    nextIs (step { State.reset with
        done := true, wign := true, err := true, errcode := 0x10, inputs := [.write .word 0x008 0xFFFFFFFF] })
      (fun t => t.statusWord == 0x1004) = true := by decide +kernel
/-- Vector W8: a half-word access, offset 0x002 and offset 0x01C are bus errors. -/
theorem test_bus_errors :
    step { State.reset with inputs := [.read .half 0x000] } = .fault (.busError .width) ∧
    step { State.reset with inputs := [.read .word 0x002] } = .fault (.busError .misaligned) ∧
    step { State.reset with inputs := [.write .word 0x01C 1] } = .fault (.busError .unmapped) := by
  exact ⟨rfl, rfl, rfl⟩
/-- Program P2, line 1. -/
theorem test_bits_line : (HostLine.bits 88 (digits [
      0,1,1,0,0,0,1,1,1,1,1,0,1,1,1,1,1,0,0,0,0,0,1,0,0,0,1,0,0,0,0,0,1,1,0,1,0,0,0,0,0,1,1,0,0,0,0,1,0,0,1,0,0,0,1,1,
      0,1,0,0,0,0,1,0,0,1,0,0,0,1,1,0,1,0,0,1,0,1,1,1,1,1,1,1,1,1,1,1])).inputs =
    [.write .word 0x100 0x63EF8220, .write .word 0x104 0xD0612342, .write .word 0x108 0x4697FF00,
      .write .word 0x014 0x00000058] := by decide +kernel
/-- A placed command word runs at the next step. -/
theorem test_withFetchWord_runs : nextIs (step (State.reset.withFetchWord 32 8))
    (fun t => t.statusWord == 0x306) = true := by decide +kernel
theorem test_decodeTableWord : decodeTableWord 32 5 = some .decodeExtS ∧ decodeTableWord 32 10 = none := by decide

/-! ### Witnesses: the hypotheses of each statement can be met -/

/-- The invariant of a loaded state: F1 in BITBUF. -/
theorem witness_inv : (bitState f1Bits).Inv :=
  ⟨by decide, ⟨by decide +kernel, by decide +kernel⟩,
    ⟨fun h => absurd rfl h, by decide +kernel, by decide +kernel, fun _ => rfl⟩, by decide +kernel, .inl rfl, .inl rfl⟩

/-- CmdWriteStartsTheCommand, with the first and the last legal word and an illegal one. -/
theorem witness_cmd_write :
    (∀ v : Word, v ∈ [(1 : Word), 9, 0xFFFFFFFF] →
      ({ State.reset with inputs := [.write .word 0x004 v] } : State).inReset = false ∧
      ({ State.reset with inputs := [.write .word 0x004 v] } : State).phase = .idle) ∧
    (busyState 9).inReset = false ∧ (busyState 9).phase = .busy 9 ∧ (busyState 9).delay = 0 := by
  exact ⟨fun _ _ => ⟨rfl, rfl⟩, rfl, rfl, rfl⟩

/-- StepRunsTheDecodedCommand: no input left before the completion, by the count or by the list. -/
theorem witness_step_runs :
    (busyState 1).inReset = false ∧ (busyState 1).phase = .busy 1 ∧ (busyState 1).delay = 0 ∧
    ({ busyState 9 with delay := 3 } : State).inputs = [] ∧ decode 1 = .ok .unstuff ∧ decode 9 = .ok .j1939Encode := by
  exact ⟨rfl, rfl, rfl, rfl, by decide, by decide⟩

/-- IllegalWordCompletesWithIllegalOp: the words next to the legal ones. -/
theorem witness_illegal :
    (busyState 0).inReset = false ∧ (busyState 0).phase = .busy 0 ∧ (busyState 0).delay = 0 ∧
    (busyState 10).phase = .busy 10 ∧ 9 < (10 : Word).toNat := by exact ⟨rfl, rfl, rfl, rfl, by decide⟩

/-- A success and a failure of every command, for the statements about a state exec answers. -/
theorem witness_exec_answers :
    nextIs (exec .unstuff (bitState [])) (fun t => !t.err) = true ∧
    nextIs (exec .unstuff { State.reset with nwin := 32 }) (fun t => t.err) = true ∧
    nextIs (exec .decodeBaseU (bitState f1Bits)) (fun t => !t.err) = true ∧
    nextIs (exec .decodeBaseU { State.reset with len := 257 }) (fun t => t.err) = true ∧
    nextIs (exec .decodeBaseS (bitState e1cBits)) (fun t => !t.err) = true ∧
    nextIs (exec .decodeExtU (bitState f11Bits)) (fun t => !t.err) = true ∧
    nextIs (exec .decodeExtS (bitState e2Bits)) (fun t => !t.err) = true ∧
    nextIs (exec .idToDbid (idState .extended 0)) (fun t => !t.err) = true ∧
    nextIs (exec .dbidToId (idState .extended 0)) (fun t => !t.err) = true ∧
    nextIs (exec .j1939Decode (idState .extended 0)) (fun t => !t.err) = true ∧
    nextIs (exec .j1939Encode (jeState 0 0 0)) (fun t => !t.err) = true := by decide +kernel

/-- CommandsReadOnlyTheirRow and DecodeOutcomeDependsOnItsInputAlone: two states that agree on LEN and the bits below it
and differ above, in BITBUF and in
NWIN. -/
theorem witness_same_operands :
    (bitState f1Bits).Inv ∧ ({ bitState f1Bits with nwin := 0, mem := (bitState f1Bits).mem.setWord 0x11C 1 } : State).Inv ∧
    SameOperands .decodeBaseU (bitState f1Bits)
      { bitState f1Bits with nwin := 0, mem := (bitState f1Bits).mem.setWord 0x11C 1 } :=
  ⟨witness_inv,
    ⟨by decide, ⟨by decide +kernel, by decide +kernel⟩,
      ⟨fun h => absurd rfl h, by decide +kernel, by decide +kernel, fun _ => rfl⟩, by decide +kernel, .inl rfl, .inl rfl⟩,
    rfl, rfl, by decide +kernel⟩

/-- CommandRunsOnItsStartOperands: two accepted accesses may come before the completion, one does. -/
theorem witness_start_operands :
    ({ busyState 6 with delay := 1, inputs := [.write .word 0x004 7, .waitIdle] } : State).phase = .busy 6 ∧
    ∀ e ∈ [Input.write .word 0x004 7, Input.waitIdle], e.accepted Config.default := by
  refine ⟨rfl, ?_⟩
  intro e he
  simp only [List.mem_cons, List.not_mem_nil, or_false] at he
  rcases he with rfl | rfl
  · exact ⟨.reg .cmd, rfl⟩
  · exact trivial

/-- ConversionOnlyByJ1939Decode and IdentifierRoundTrips (d). -/
theorem witness_conversion : (idState .standard 0xFFFFFFFF).opk = .standard := rfl

/-- FieldValueIsMsbFirst, WindowHoldsTheLastInputBits, UnstuffKeepsExactlyTheOtherBits, RunLengthFormAgrees,
StuffingBitOnlyAfterAUniformWindow: the smallest width; UnstuffUndoesStuff: the smallest n and the shortest sequence
with a whole trailer; a sequence with no run of n before it; the clauses on the dropped index. -/
theorem witness_destuffer :
    (1 : Nat) < 2 ^ 1 ∧ (1 : Nat) ≤ 1 ∧ (2 : Nat) ≤ 2 ∧ 13 ≤ (List.replicate 13 true).length ∧
    (∀ i, i + 5 + 13 ≤ (List.replicate 17 false).length → windowUniform (slice (List.replicate 17 false) i 5) = false) ∧
    ((List.replicate 14 false).length ≤ 1 + 13 ∨ 1 < 5) := by
  refine ⟨by decide, by decide, by decide, by decide, ?_, by decide⟩
  intro i hi
  simp at hi

/-- StuffedRunsAreBounded: a sequence long enough to hold n + 1 bits before the trailer. -/
theorem witness_run_bound : 0 + (5 + 1) + 13 ≤ (stuff (List.replicate 5 false ++ List.replicate 13 true) 5).length := by
  decide +kernel

/-- LongestStuffedFrameHas230Bits and the DECODE statements: 15 payload bytes are allowed, and none. -/
theorem witness_frame_lengths :
    ({ f1 with data := List.replicate 15 0x55 } : BaseFrame).data.length ≤ 15 ∧
    ({ f11 with data := [] } : ExtFrame).data.length ≤ 15 := by decide

/-- UnstuffWritesTheDestuffedBits and UnstuffOutputLength: the smallest and the largest window, the empty input. -/
theorem witness_unstuff :
    (bitState f1Bits).Inv ∧ 1 ≤ (bitState f1Bits).nwin.toNat ∧ (bitState f1Bits).nwin.toNat ≤ 31 ∧
    (bitState f1Bits).len.toNat ≤ (bitState f1Bits).cfg.maxBits ∧
    nextIs (exec .unstuff (bitState f1Bits)) (fun t => !t.err) = true ∧
    1 ≤ ({ State.reset with nwin := 1 } : State).nwin.toNat ∧ ({ State.reset with nwin := 31 } : State).nwin.toNat ≤ 31 ∧
    ({ State.reset with len := 256 } : State).len.toNat ≤ ({ State.reset with len := 256 } : State).cfg.maxBits :=
  ⟨witness_inv, by decide +kernel, by decide +kernel, by decide +kernel, by decide +kernel, by decide +kernel,
    by decide +kernel, by decide +kernel⟩

/-- UnstuffRefusesBadOperands: NWIN just outside its range on both sides; LEN one too long. -/
theorem witness_unstuff_refuses :
    ({ State.reset with nwin := 0 } : State).nwin.toNat = 0 ∧ 31 < ({ State.reset with nwin := 32 } : State).nwin.toNat ∧
    1 ≤ State.reset.nwin.toNat ∧ State.reset.nwin.toNat ≤ 31 ∧
    ({ State.reset with len := 257 } : State).cfg.maxBits < ({ State.reset with len := 257 } : State).len.toNat := by
  decide +kernel

/-- DecodeBaseUReadsABaseFrame and DecodeBaseSReadsAStuffedBaseFrame: a frame with a bit after it, and stuffed frames. -/
theorem witness_decode_base :
    f1.data.length ≤ 15 ∧ (bitState (f1Bits ++ [false])).len.toNat ≤ (bitState (f1Bits ++ [false])).cfg.maxBits ∧
    (bitState (f1Bits ++ [false])).inputBits = f1.bits ++ [false] ∧
    (bitState e1cBits).len.toNat ≤ (bitState e1cBits).cfg.maxBits ∧ (bitState e1cBits).inputBits = stuff f1.bits 5 ∧
    unstuff (bitState (e1cBits ++ [false])).inputBits 5 = f1.bits ++ [false] := by decide +kernel

/-- DecodeExtUReadsAnExtendedFrame and DecodeExtSReadsAStuffedExtendedFrame. -/
theorem witness_decode_ext :
    f11.data.length ≤ 15 ∧ (bitState (f11Bits ++ [false])).len.toNat ≤ (bitState (f11Bits ++ [false])).cfg.maxBits ∧
    (bitState (f11Bits ++ [false])).inputBits = f11.bits ++ [false] ∧
    (bitState e2Bits).len.toNat ≤ (bitState e2Bits).cfg.maxBits ∧ (bitState e2Bits).inputBits = stuff f11.bits 5 ∧
    unstuff (bitState (e2Bits ++ [false])).inputBits 5 = f11.bits ++ [false] := by decide +kernel

/-- AcceptedStreamsAreFrames, TruncatedFramesMissTheCutField, FlippedConstantsAreReported: accepted streams of both
formats, a field cut at its first bit and before its last (EOF, the last constant field but one), and a flipped bit. -/
theorem witness_accepted :
    decodeFrame false f1Bits = .ok (f1.regs 55) ∧ decodeFrame true f11Bits = .ok (f11.regs 75) ∧
    (f1.regs 55).dlc.toNat = 1 ∧ (f11.regs 75).dlc.toNat = 1 ∧
    (⟨45, 7, .eofMissing, some .eofMustBeOnes⟩ : Span) ∈ frameSpans false 1 ∧
    (⟨65, 7, .eofMissing, some .eofMustBeOnes⟩ : Span) ∈ frameSpans true 1 ∧
    45 ≤ 45 ∧ 51 < 45 + 7 ∧ 65 ≤ 65 ∧ 71 < 65 + 7 ∧
    unstuff (f1Bits.set 0 (!f1Bits.getD 0 false)) 5 ≠ [] := by decide +kernel

/-- FlippedConstantsAreReported, its second clause: vector F8's stream destuffs to F1 with SOF flipped. -/
theorem witness_flipped_stuffed :
    unstuff (stuff (f1Bits.set 0 (!f1Bits.getD 0 false)) 5) 5 = f1Bits.set 0 (!f1Bits.getD 0 false) := by decide +kernel

/-- FailedDecodeKeepsTheFrameRegisters and WalkErrorsAreThoseOfTheTable: the empty stream; a LEN one too long. -/
theorem witness_failed_decode :
    (bitState []).len.toNat ≤ (bitState []).cfg.maxBits ∧
    decodeFrame false (decodedStream true (bitState []).inputBits) = .error ⟨.sofMissing, 0⟩ ∧
    decodeFrame true (decodedStream false (bitState []).inputBits) = .error ⟨.sofMissing, 0⟩ ∧
    ({ State.reset with len := 257 } : State).cfg.maxBits < ({ State.reset with len := 257 } : State).len.toNat := by
  decide +kernel

/-- IdToDbidConverts, DbidToIdConverts, J1939DecodeSplitsTheIdentifier and IdentifierRoundTrips: the largest legal and the
smallest illegal value of each kind. -/
theorem witness_identifiers :
    (idState .standard 0x7FF).opk = .standard ∧ (idState .standard 0x7FF).opv.toNat < 2 ^ 11 ∧
    (idState .extended 0x1FFFFFFF).opk = .extended ∧ (idState .extended 0x1FFFFFFF).opv.toNat < 2 ^ 29 ∧
    2 ^ 11 ≤ (idState .standard 0x800).opv.toNat ∧ 2 ^ 29 ≤ (idState .extended 0x20000000).opv.toNat := by decide +kernel

/-- PduClassDecidesDaOrGe: the formats 0xEF and 0xF0. -/
theorem witness_pdu_classes :
    (((0x0EF42 : BitVec 18) >>> 8) &&& 0xFF).toNat < 0xF0 ∧ 0xF0 ≤ (((0x0F042 : BitVec 18) >>> 8) &&& 0xFF).toNat := by
  decide

/-- J1939EncodePacksTheFields: the largest legal and the smallest illegal value of each field. -/
theorem witness_j1939Encode :
    (jeState 7 0x3FFFF 0xFF).jePrio.toNat < 2 ^ 3 ∧ (jeState 7 0x3FFFF 0xFF).jePgn.toNat < 2 ^ 18 ∧
    (jeState 7 0x3FFFF 0xFF).jeSa.toNat < 2 ^ 8 ∧ 2 ^ 3 ≤ (jeState 8 0 0).jePrio.toNat ∧
    2 ^ 18 ≤ (jeState 7 0x40000 0).jePgn.toNat ∧ 2 ^ 8 ≤ (jeState 7 0 0x100).jeSa.toNat := by decide +kernel

/-- IdentifierRoundTrips: the two commands answer one after the other. -/
theorem witness_round_trips :
    nextIs (exec .idToDbid (idState .extended 0x1FFFFFFF))
      (fun t => nextIs (exec .dbidToId { t with opk := t.resk, opv := t.resv }) (fun _ => true)) = true ∧
    nextIs (exec .j1939Encode (jeState 7 0x3FFFF 0xFF))
      (fun t => nextIs (exec .j1939Decode { t with opk := t.resk, opv := t.resv }) (fun _ => true)) = true := by
  decide +kernel

/-- RegisterKinds: a register of each kind; an IDLE state outside reset with a write to the first register and to the last
one, to the first and the last OUTBUF word, and a read of the last register. -/
theorem witness_register_kinds :
    Reg.ctrl ∈ Reg.rw ∧ Reg.jeSa ∈ Reg.rw ∧ Reg.errpos ∈ Reg.ro ∧ Reg.fData3 ∈ Reg.ro ∧
    (∀ e ∈ [Input.write .word (BitVec.ofNat 12 Reg.ctrl.offset) 1, .write .word (BitVec.ofNat 12 Reg.fData3.offset) 1,
        .write .word (BitVec.ofNat 12 (0x100 + 4 * 0)) 1, .write .word (BitVec.ofNat 12 (0x100 + 4 * 7)) 1,
        .write .word (BitVec.ofNat 12 (0x200 + 4 * 0)) 1, .write .word (BitVec.ofNat 12 (0x200 + 4 * 7)) 1,
        .read .word (BitVec.ofNat 12 Reg.fData3.offset)],
      ({ State.reset with inputs := [e] } : State).inReset = false ∧
      ({ State.reset with inputs := [e] } : State).phase = .idle ∧
      nextIs (step { State.reset with inputs := [e] }) (fun t => t.inputs.isEmpty) = true) ∧
    State.reset.cfg.wf = true ∧ 0 < State.reset.cfg.maxBits / 32 ∧ 7 < State.reset.cfg.maxBits / 32 := by
  decide +kernel

/-- AccessWhileBusy, and CmdWriteStartsTheCommand while BUSY: the first and the last mapped word, CMD among them. -/
theorem witness_access_while_busy :
    ({ busyState 6 with delay := 1 } : State).inReset = false ∧ ({ busyState 6 with delay := 1 } : State).phase = .busy 6 ∧
    portTarget Config.default .word 0x000 = .ok (.reg .ctrl) ∧ portTarget Config.default .word 0x004 = .ok (.reg .cmd) ∧
    portTarget Config.default .word 0x21C = .ok (.outbuf 7) := by exact ⟨rfl, rfl, rfl, rfl, rfl⟩

/-- OnlyAlignedWordAccessesAreAccepted and ReadsHaveNoSideEffect: an accepted access, and one of each kind refused. -/
theorem witness_accesses :
    (targetAt Config.default (0x21C : BitVec 12).toNat).isSome = true ∧
    (targetAt Config.default (0x220 : BitVec 12).toNat).isSome = false ∧ (0x002 : BitVec 12).toNat % 4 ≠ 0 ∧
    ({ State.reset with inputs := [.read .word 0x220] } : State).inReset = false ∧
    ({ State.reset with inputs := [.read .word 0x220] } : State).phase = .idle ∧
    ({ busyState 6 with delay := 1 } : State).delay ≠ 0 ∧
    nextIs (step { State.reset with inputs := [.read .word 0x010] }) (fun t => t.lastRead == some 5) = true := by
  exact ⟨rfl, rfl, by decide, rfl, rfl, by decide, by decide +kernel⟩

/-- AddressMap and BufferBitMapping: the last buffer word and bit of the smallest and the largest capacity. -/
theorem witness_address_map :
    ({ maxBits := 32 } : Config).wf = true ∧ 0 < ({ maxBits := 32 } : Config).maxBits / 32 ∧
    ({ maxBits := 2048 } : Config).wf = true ∧ 63 < ({ maxBits := 2048 } : Config).maxBits / 32 ∧
    2047 < (State.resetWith { maxBits := 2048 }).cfg.maxBits ∧ (0xFFC : Nat) < 0x1000 ∧ 0xFFC % 4 = 0 := by decide

/-- BitbufWordReadsBack and RegisterKinds: the first and the last BITBUF word. -/
theorem witness_bitbuf_write :
    ({ bitState f1Bits with inputs := [.write .word (BitVec.ofNat 12 (0x100 + 4 * 7)) 1] } : State).Inv ∧
    (bitState f1Bits).inReset = false ∧ (bitState f1Bits).phase = .idle ∧ 7 < (bitState f1Bits).cfg.maxBits / 32 ∧
    0 < (bitState f1Bits).cfg.maxBits / 32 :=
  ⟨⟨by decide, ⟨by decide +kernel, by decide +kernel⟩,
      ⟨fun h => absurd rfl h, by decide +kernel, by decide +kernel, fun _ => rfl⟩, by decide +kernel, .inl rfl, .inl rfl⟩,
    rfl, rfl, by decide +kernel, by decide +kernel⟩

/-- InterruptFollowsDone: written words with the bits it speaks of; a step that sets DONE, and completions of a legal and
of an illegal word. -/
theorem witness_interrupt :
    (0x0000000A : Word).getLsbD 1 = true ∧ (0xFFFFFFFE : Word).getLsbD 0 = false ∧ (busyState 6).done = false ∧
    nextIs (step (busyState 6)) (fun t => t.done) = true ∧ nextIs (runCommand 9 (busyState 9)) (fun t => t.done) = true ∧
    nextIs (runCommand 10 (busyState 10)) (fun t => t.done) = true := by decide +kernel

/-- ClrAcknowledgesACompletion, RunStartsTheNamedCommand and WaitEndsWhenIdle. -/
theorem witness_host_lines :
    ({ State.reset with inputs := HostLine.clr.inputs ++ [] } : State).inReset = false ∧
    ({ State.reset with inputs := (HostLine.run .unstuff).inputs ++ [.waitIdle] } : State).phase = .idle ∧
    ({ State.reset with inputs := [.waitIdle] } : State).phase = .idle ∧
    ({ busyState 6 with delay := 1, inputs := [.waitIdle] } : State).phase = .busy 6 := by exact ⟨rfl, rfl, rfl, rfl⟩

/-- BitsLineLoadsTheInput: a string that fills BITBUF. -/
theorem witness_bits_line :
    ({ bitState f1Bits with inputs := (HostLine.bits 256 (List.replicate 256 true)).inputs } : State).Inv ∧
    (bitState f1Bits).inReset = false ∧ (bitState f1Bits).phase = .idle ∧
    (List.replicate 256 true).length ≤ (bitState f1Bits).cfg.maxBits :=
  ⟨⟨by decide, ⟨by decide +kernel, by decide +kernel⟩,
      ⟨fun h => absurd rfl h, by decide +kernel, by decide +kernel, fun _ => rfl⟩, by decide +kernel, .inl rfl, .inl rfl⟩,
    rfl, rfl, by decide +kernel⟩

/-- ResetEvent: in reset, idle, and busy with the reset before the completion. -/
theorem witness_reset_event :
    ({ State.reset with inReset := true, inputs := [.reset false] } : State).inReset = true ∧
    ({ State.reset with inputs := [.reset true] } : State).phase = .idle ∧
    ({ busyState 6 with delay := 1, inputs := [.reset true] } : State).delay ≠ 0 := by
  exact ⟨rfl, rfl, by decide⟩

/-- AccessDuringReset: in reset with a write or a read pending, the first and the last address, accepted and refused
widths. -/
theorem witness_access_during_reset :
    (∀ e ∈ [Input.write .word 0x000 1, .write .byte 0xFFF 1, .read .word 0x000, .read .half 0xFFF],
      ({ State.reset with inReset := true, inputs := [e] } : State).inReset = true ∧
      ({ State.reset with inReset := true, inputs := [e] } : State).inputs = e :: [] ∧
      nextIs (step { State.reset with inReset := true, inputs := [e] }) (fun t => t.inReset) = true) := by
  decide +kernel

/-- IdleBlockWaits. -/
theorem witness_idle : State.reset.inReset = false ∧ State.reset.phase = .idle ∧ State.reset.inputs = [] := ⟨rfl, rfl, rfl⟩

/-- StepKeepsTheInvariant and StepsStopOnlyAtABusError: a step that answers a next state from a state that meets the
invariant, and one that stops. -/
theorem witness_step :
    (bitState f1Bits).Inv ∧ step (bitState f1Bits) = .next (bitState f1Bits) ∧
    step { State.reset with inputs := [.read .word 0x01C] } = .fault (.busError .unmapped) := ⟨witness_inv, rfl, rfl⟩

end Sys2Proof.Tests
end

section
/-! PROOFS. Field values (00_scope.md R9): the weighted sum of a sequence's bits, and `fb_w` as the inverse of `val`. -/

namespace Sys2Proof.Machine

/-- The weighted sum of R9. Going to one more bit in front shifts every index by one and keeps the weights of the
bits behind it. -/
theorem val_eq_weighted_sum (x : Bits) :
    val x = ((List.range x.length).map fun k => (x.getD k false).toNat * 2 ^ (x.length - 1 - k)).sum := by
  induction x with
  | nil => rfl
  | cons b x ih =>
    have weight_shift : ∀ k, x.length - 1 - k = x.length - (k + 1) := by omega
    rw [val_cons, ih]
    simp [List.range_succ_eq_map, Function.comp_def, weight_shift]

/-- `fb_w` keeps the low w bits of any number, so its value is the number modulo 2^w. -/
theorem val_fieldBits (w v : Nat) : val (fieldBits w v) = v % 2 ^ w := by
  apply Nat.eq_of_testBit_eq
  intro i
  rw [Nat.testBit_mod_two_pow]
  by_cases hi : i < w
  · have mirrored : w - 1 - (w - 1 - i) = i := by omega
    rw [val_testBit _ i (by simpa using hi)]
    simp [fieldBits, mirrored, hi]
  · have hw : 2 ^ w ≤ 2 ^ i := Nat.pow_le_pow_right (by decide) (by omega)
    have hlt : val (fieldBits w v) < 2 ^ w := by simpa using val_lt (fieldBits w v)
    simp [Nat.testBit_lt_two_pow (hlt.trans_le hw), hi]

theorem val_fieldBits_of_lt (w v : Nat) (h : v < 2 ^ w) : val (fieldBits w v) = v := by
  rw [val_fieldBits, Nat.mod_eq_of_lt h]

/-- A sequence is determined by its length and its value. -/
@[simp] theorem fieldBits_val (x : Bits) : fieldBits x.length (val x) = x := by
  apply List.ext_getElem (fieldBits_length _ _)
  intro k _ hk
  have mirrored : x.length - 1 - (x.length - 1 - k) = k := by omega
  simp only [fieldBits, List.getElem_map, List.getElem_range]
  rw [val_testBit x _ (by omega)]
  simp [mirrored]

/-- Settles O13: the sum by induction on the sequence, both inverse directions by comparing bits. -/
theorem fieldValueIsMsbFirst : Obligations.FieldValueIsMsbFirst :=
  ⟨val_eq_weighted_sum, fun w v h => ⟨fieldBits_length w v, val_fieldBits_of_lt w v h⟩, fieldBits_val⟩

end Sys2Proof.Machine
end

section
/-! PROOFS. Registers and accesses (10_state.md R21, R23, R31): what an accepted access does in each phase, which bits a
register shows, and what a register write stores. -/

namespace Sys2Proof.Machine

/-! ### Accepted accesses -/

/-- A legal capacity is a whole number of words and leaves each buffer inside its region of the map. -/
theorem config_wf_iff (cfg : Config) :
    cfg.wf = true ↔ cfg.maxBits % 32 = 0 ∧ 32 ≤ cfg.maxBits ∧ cfg.maxBits ≤ 2048 := by
  simp [Config.wf, and_assoc]

theorem portTarget_bitbuf {cfg : Config} {k : Nat} (hc : cfg.wf = true) (hk : k < cfg.maxBits / 32) :
    portTarget cfg .word (BitVec.ofNat 12 (0x100 + 4 * k)) = .ok (.bitbuf k) := by
  obtain ⟨_, _, capacity_le⟩ := (config_wf_iff cfg).mp hc
  have addr : (BitVec.ofNat 12 (0x100 + 4 * k)).toNat = 0x100 + 4 * k := by simp; omega
  have aligned : (0x100 + 4 * k) % 4 = 0 := by omega
  have inside : 4 * k < cfg.maxBits / 8 := by omega
  simp [portTarget, targetAt, bitbufBase, addr, aligned, inside]

theorem portTarget_outbuf {cfg : Config} {k : Nat} (hc : cfg.wf = true) (hk : k < cfg.maxBits / 32) :
    portTarget cfg .word (BitVec.ofNat 12 (0x200 + 4 * k)) = .ok (.outbuf k) := by
  obtain ⟨_, _, capacity_le⟩ := (config_wf_iff cfg).mp hc
  have addr : (BitVec.ofNat 12 (0x200 + 4 * k)).toNat = 0x200 + 4 * k := by simp; omega
  have aligned : (0x200 + 4 * k) % 4 = 0 := by omega
  have inside : 4 * k < cfg.maxBits / 8 := by omega
  have aboveBitbuf : ¬ 0x200 + 4 * k < 0x100 + cfg.maxBits / 8 := by omega
  simp [portTarget, targetAt, bitbufBase, outbufBase, addr, aligned, inside, aboveBitbuf]

section
variable {s : State} {addr : BitVec 12} {g : Target}

theorem acceptInput_read (hg : portTarget s.cfg .word addr = .ok g) :
    s.acceptInput (.read .word addr) = .next { s with lastRead := some (s.readTarget g) } := by
  simp [State.acceptInput, State.portRead, hg]

theorem acceptInput_write_idle (v : Word) (hp : s.phase = .idle) (hg : portTarget s.cfg .word addr = .ok g) :
    s.acceptInput (.write .word addr v) = .next (s.writeTarget g v) := by
  simp [State.acceptInput, State.portWrite, hg, hp, Phase.isBusy]

theorem acceptInput_write_busy {op : Word} (v : Word) (hp : s.phase = .busy op)
    (hg : portTarget s.cfg .word addr = .ok g) : s.acceptInput (.write .word addr v) = .next s.ignoreWrite := by
  simp [State.acceptInput, State.portWrite, hg, hp, Phase.isBusy]

end

/-! ### Steps that carry out an access -/

section
variable {s : State} {addr : BitVec 12} {g : Target} {rest : List Input}

theorem step_idle_write {v : Word} (hr : s.inReset = false) (hp : s.phase = .idle)
    (hg : portTarget s.cfg .word addr = .ok g) (hi : s.inputs = .write .word addr v :: rest) :
    step s = .next (({ s with inputs := rest } : State).writeTarget g v) :=
  (step_idle hr hp hi).trans (acceptInput_write_idle v hp hg)

theorem step_idle_read (hr : s.inReset = false) (hp : s.phase = .idle) (hg : portTarget s.cfg .word addr = .ok g)
    (hi : s.inputs = .read .word addr :: rest) :
    step s = .next { s with inputs := rest, lastRead := some (({ s with inputs := rest } : State).readTarget g) } :=
  (step_idle hr hp hi).trans (acceptInput_read hg)

/-- The completion is due: it comes before any input. -/
theorem step_busy_due {op : Word} (hr : s.inReset = false) (hp : s.phase = .busy op) (hd : s.delay = 0) :
    step s = runCommand op s := by
  simp [step, hr, hp, hd]

/-- The completion is not due: the next input comes first. -/
theorem step_busy_input {op : Word} {d : Nat} {e : Input} (hr : s.inReset = false) (hp : s.phase = .busy op)
    (hd : s.delay = d + 1) (hi : s.inputs = e :: rest) :
    step s = ({ s with inputs := rest, delay := d } : State).acceptInput e := by
  simp [step, hr, hp, hd, hi]

theorem step_busy_write {op v : Word} {d : Nat} (hr : s.inReset = false) (hp : s.phase = .busy op)
    (hd : s.delay = d + 1) (hg : portTarget s.cfg .word addr = .ok g) (hi : s.inputs = .write .word addr v :: rest) :
    step s = .next { s with inputs := rest, delay := d, wign := true } :=
  (step_busy_input hr hp hd hi).trans (acceptInput_write_busy v hp hg)

theorem step_busy_read {op : Word} {d : Nat} (hr : s.inReset = false) (hp : s.phase = .busy op)
    (hd : s.delay = d + 1) (hg : portTarget s.cfg .word addr = .ok g) (hi : s.inputs = .read .word addr :: rest) :
    step s = .next { s with
      inputs := rest, delay := d, lastRead := some (({ s with inputs := rest, delay := d } : State).readTarget g) } :=
  (step_busy_input hr hp hd hi).trans (acceptInput_read hg)

end

/-- What a read returns depends neither on the inputs still to come nor on when the command completes. -/
theorem readTarget_inputs_delay (s : State) (rest : List Input) (d : Nat) (g : Target) :
    ({ s with inputs := rest, delay := d } : State).readTarget g = s.readTarget g := by
  cases g with
  | reg r => cases r <;> rfl
  | bitbuf k => rfl
  | outbuf k => rfl

/-! ### The bits a register shows

`x &&& ~~~ m = 0` says that x has no bit outside the mask m. -/

theorem bitWord_getLsbD (b : Bool) (p i : Nat) : (bitWord b p).getLsbD i = (decide (i < 32) && (b && decide (i = p))) := by
  by_cases hlt : i < p
  · have hne : i ≠ p := by omega
    simp [bitWord, hlt, hne]
  · have hiff : i - p = 0 ↔ i = p := by omega
    cases b <;> simp [bitWord, hlt, hiff]

theorem bitWord_and_not_mask (b : Bool) {p : Nat} {m : Word} (hm : m.getLsbD p = true) : bitWord b p &&& ~~~ m = 0 := by
  apply BitVec.eq_of_getLsbD_eq
  intro i hi
  by_cases hp : i = p
  · subst hp; simp [hm]
  · simp [bitWord_getLsbD, hp]

theorem shiftedField_and_not_mask {w : Nat} (x : BitVec w) {p : Nat} {m : Word}
    (hm : ∀ i < w, m.getLsbD (p + i) = true) : (x.setWidth 32 <<< p) &&& ~~~ m = 0 := by
  apply BitVec.eq_of_getLsbD_eq
  intro i hi
  by_cases below : i < p
  · simp [below]
  by_cases above : w ≤ i - p
  · simp [BitVec.getLsbD_of_ge x _ above]
  · have named : m.getLsbD i = true := by simpa [show p + (i - p) = i by omega] using hm (i - p) (by omega)
    simp [named]

theorem field_and_not_mask {w : Nat} (x : BitVec w) {m : Word} (hm : ∀ i < w, m.getLsbD i = true) :
    x.setWidth 32 &&& ~~~ m = 0 := by
  simpa using shiftedField_and_not_mask x (p := 0) (by simpa using hm)

theorem or_and_not_mask {x y m : Word} (hx : x &&& ~~~ m = 0) (hy : y &&& ~~~ m = 0) : (x ||| y) &&& ~~~ m = 0 := by
  rw [BitVec.and_comm] at hx hy ⊢
  simp [BitVec.and_or_distrib_left, hx, hy]

theorem word_and_not_allOnes (x : Word) : x &&& ~~~ (0xFFFFFFFF : Word) = 0 := by simp

theorem statusWord_reserved (s : State) : s.statusWord &&& ~~~ Reg.status.namedBits = 0 :=
  or_and_not_mask
    (or_and_not_mask
      (or_and_not_mask
        (or_and_not_mask (bitWord_and_not_mask _ rfl) (bitWord_and_not_mask _ rfl))
        (bitWord_and_not_mask _ rfl))
      (bitWord_and_not_mask _ rfl))
    (shiftedField_and_not_mask _ (by decide))

theorem pduWord_reserved (j : JdRegs) : j.pduWord &&& ~~~ Reg.jdPdu.namedBits = 0 :=
  or_and_not_mask
    (or_and_not_mask
      (or_and_not_mask
        (or_and_not_mask (bitWord_and_not_mask _ rfl) (bitWord_and_not_mask _ rfl))
        (bitWord_and_not_mask _ rfl))
      (shiftedField_and_not_mask _ (by decide)))
    (shiftedField_and_not_mask _ (by decide))

/-- A register is a single bit, one field in the low bits, a whole word, CMD, or one of the two composed words. -/
theorem readReg_reserved (s : State) (r : Reg) : s.readReg r &&& ~~~ r.namedBits = 0 := by
  cases r
  case cmd => exact BitVec.zero_and
  case status => exact statusWord_reserved s
  case jdPdu => exact pduWord_reserved s.jd
  case ctrl | opk | resk | fKind => exact bitWord_and_not_mask _ rfl
  case nwin | len | opv | resv | jePrio | jePgn | jeSa | fData0 | fData1 | fData2 | fData3 =>
    exact word_and_not_allOnes _
  case errpos | outlen | jdPrio | jdPgn | jdSa | fId | fIda | fIdb | fBits | fDlc | fCrc | fEof | fIfs | fEnd | fDlen =>
    exact field_and_not_mask _ (by decide)

/-! ### What a register write stores -/

theorem bitWord_getLsbD_zero (v : Word) : bitWord (v.getLsbD 0) 0 = v &&& 0x00000001 := by
  apply BitVec.eq_of_getLsbD_eq
  intro i hi
  rw [bitWord_getLsbD]
  by_cases h0 : i = 0
  · subst h0; simp
  · simp [h0, hi]

@[simp] theorem IdKind.bit_ofBit (b : Bool) : (IdKind.ofBit b).bit = b := by cases b <;> rfl

theorem forall_mem_rw {P : Reg → Prop} :
    (∀ r ∈ Reg.rw, P r) ↔
      P .ctrl ∧ P .nwin ∧ P .len ∧ P .opk ∧ P .opv ∧ P .jePrio ∧ P .jePgn ∧ P .jeSa := by
  simp [Reg.rw]

theorem readReg_writeReg_same (s : State) (v : Word) :
    ∀ r ∈ Reg.rw, (s.writeReg r v).readReg r = v &&& r.namedBits := by
  have whole : v = v &&& 0xFFFFFFFF := BitVec.and_allOnes.symm
  have tag : bitWord (IdKind.ofBit (v.getLsbD 0)).bit 0 = v &&& 0x00000001 := by
    rw [IdKind.bit_ofBit, bitWord_getLsbD_zero]
  exact forall_mem_rw.mpr ⟨bitWord_getLsbD_zero v, whole, whole, tag, whole, whole, whole, whole⟩

/-- No two registers show the same field, so a write that stores in one field shows in one register. -/
theorem readReg_writeReg_other (s : State) (v : Word) (q : Reg) :
    ∀ r ∈ Reg.rw, q ≠ r → (s.writeReg r v).readReg q = s.readReg q := by
  rw [forall_mem_rw]
  cases q <;> simp [State.writeReg, State.readReg, State.statusWord]

theorem writeReg_ro (s : State) (v : Word) : ∀ r ∈ Reg.ro, s.writeReg r v = s := by simp [Reg.ro, State.writeReg]

theorem Reg.cmd_or_status_or_rw_or_ro (r : Reg) : r = .cmd ∨ r = .status ∨ r ∈ Reg.rw ∨ r ∈ Reg.ro := by
  cases r <;> decide

/-- Under the invariant every byte of a BITBUF word is there to be written. -/
theorem bitbuf_byte_listed {s : State} (hs : s.Inv) {k j : Nat} (hk : k < s.cfg.maxBits / 32) (hj : j < 4) :
    bitbufBase + 4 * k + j ∈ s.mem.map Prod.fst := by
  obtain ⟨_, addrs⟩ := hs.mem
  rw [addrs, mem_bufferAddrs, bitbufBase]
  omega

theorem readTarget_writeTarget_bitbuf {s : State} (hs : s.Inv) {k : Nat} (hk : k < s.cfg.maxBits / 32) (v : Word) :
    (s.writeTarget (.bitbuf k) v).readTarget (.bitbuf k) = v :=
  Memory.word_setWord_same s.mem (bitbufBase + 4 * k) v fun _ hj => bitbuf_byte_listed hs hk hj

/-! ### The statements of 10_state.md -/

/-- Settles O40: the register operations by the kind of the register, the steps by where their address leads. -/
theorem registerKinds : Obligations.RegisterKinds := by
  refine ⟨readReg_reserved, fun s r v hr => ⟨readReg_writeReg_same s v r hr, fun q => readReg_writeReg_other s v q r hr⟩,
    fun s v => ⟨rfl, rfl, rfl, rfl, rfl, rfl, rfl, rfl⟩, fun s r v => writeReg_ro s v r, fun s => rfl, fun s v => rfl,
    fun s v => rfl, Reg.cmd_or_status_or_rw_or_ro, fun s k v hs hk => readTarget_writeTarget_bitbuf hs hk v,
    fun s k v => ⟨rfl, fun a => Memory.byte_setWord_other s.mem (bitbufBase + 4 * k) a v⟩, fun s k v => rfl,
    fun s rest hr hp => ⟨?writeReg, ?writeBitbuf, ?writeOutbuf, ?readReg⟩⟩
  case writeReg => exact fun r v hi => step_idle_write hr hp (portTarget_reg s.cfg r) hi
  case writeBitbuf => exact fun k v hc hk hi => step_idle_write hr hp (portTarget_bitbuf hc hk) hi
  case writeOutbuf => exact fun k v hc hk hi => step_idle_write hr hp (portTarget_outbuf hc hk) hi
  case readReg =>
    intro r hi
    rw [step_idle_read hr hp (portTarget_reg s.cfg r) hi, readTarget_inputs_delay s rest s.delay]
    rfl

/-- Settles O3: the write to CMD is a start, and while BUSY a step is the completion or an ignored write. -/
theorem cmdWriteStartsTheCommand : Obligations.CmdWriteStartsTheCommand := by
  intro s v rest hr hp hi
  refine ⟨Config.freeDelay s.draws, step_idle_write hr hp (portTarget_reg s.cfg .cmd) hi, fun b hbr hbp => ⟨?due, ?before⟩⟩
  case due => exact step_busy_due hbr hbp
  case before => exact fun addr x target n later hd hg hbi => step_busy_write hbr hbp hd hg hbi

/-- Settles O41: the completion is not due, so the access comes first and meets a running command. -/
theorem accessWhileBusy : Obligations.AccessWhileBusy := by
  intro s op addr t d rest hr hp hd ht
  refine ⟨fun v hi => step_busy_write hr hp hd ht hi, fun hi => ?_⟩
  rw [step_busy_read hr hp hd ht hi, readTarget_inputs_delay]

end Sys2Proof.Machine
end

section
/-! PROOFS. Accesses to the port (20_memory.md R72, R74): which accesses it accepts, what it answers to each, and the bits
of a buffer word. -/

namespace Sys2Proof.Machine

/-- R74: the port accepts an access exactly where it reaches a target. -/
theorem portTarget_accepts_iff (cfg : Config) (width : AccessWidth) (addr : BitVec 12) :
    (∃ g, portTarget cfg width addr = .ok g) ↔
      width = .word ∧ addr.toNat % 4 = 0 ∧ (targetAt cfg addr.toNat).isSome = true := by
  cases width with
  | byte | half => simp [portTarget]
  | word =>
    by_cases aligned : addr.toNat % 4 = 0
    · cases mapped : targetAt cfg addr.toNat <;> simp [portTarget, aligned, mapped]
    · simp [portTarget, aligned]

theorem portTarget_refuses {cfg : Config} {width : AccessWidth} {addr : BitVec 12}
    (h : ¬ (width = .word ∧ addr.toNat % 4 = 0 ∧ (targetAt cfg addr.toNat).isSome = true)) :
    ∃ reason, portTarget cfg width addr = .error reason := by
  cases hp : portTarget cfg width addr with
  | error reason => exact ⟨reason, rfl⟩
  | ok g => exact absurd ((portTarget_accepts_iff cfg width addr).mp ⟨g, hp⟩) h

section
variable {s : State} {width : AccessWidth} {addr : BitVec 12} {g : Target} {reason : BusErrorReason}

theorem portRead_ok (hg : portTarget s.cfg width addr = .ok g) : s.portRead width addr = (s.readTarget g, none) := by
  simp [State.portRead, hg]

theorem portRead_error (he : portTarget s.cfg width addr = .error reason) :
    s.portRead width addr = (0, some reason) := by
  simp [State.portRead, he]

theorem portWrite_ok (v : Word) (hg : portTarget s.cfg width addr = .ok g) :
    s.portWrite width addr v = (if s.phase.isBusy then s.ignoreWrite else s.writeTarget g v, none) := by
  simp [State.portWrite, hg]

theorem portWrite_error (v : Word) (he : portTarget s.cfg width addr = .error reason) :
    s.portWrite width addr v = (s, some reason) := by
  simp [State.portWrite, he]

/-- A refused access stops the machine, whether it reads or writes. -/
theorem acceptInput_refused {e : Input} {v : Word} (he : portTarget s.cfg width addr = .error reason)
    (access : e = .read width addr ∨ e = .write width addr v) : s.acceptInput e = .fault (.busError reason) := by
  obtain rfl | rfl := access
  · simp [State.acceptInput, portRead_error he]
  · simp [State.acceptInput, portWrite_error v he]

end

theorem Phase.eq_idle_or_busy (p : Phase) : p = .idle ∨ ∃ op, p = .busy op := by
  cases p with
  | idle => exact .inl rfl
  | busy op => exact .inr ⟨op, rfl⟩

/-- Outside reset, and before a running command is due, a step carries out the next input; only the count to the
completion may move with it. -/
theorem step_eq_acceptInput {s : State} {e : Input} {rest : List Input} (hr : s.inReset = false)
    (before : s.phase = .idle ∨ s.delay ≠ 0) (hi : s.inputs = e :: rest) :
    ∃ d, step s = ({ s with inputs := rest, delay := d } : State).acceptInput e := by
  obtain hp | ⟨op, hp⟩ := s.phase.eq_idle_or_busy
  · exact ⟨s.delay, step_idle hr hp hi⟩
  · have notDue : s.delay ≠ 0 := before.resolve_left (by simp [hp])
    obtain ⟨d, hd⟩ := Nat.exists_eq_succ_of_ne_zero notDue
    exact ⟨d, step_busy_input hr hp hd hi⟩

/-! ### The statements of 20_memory.md -/

/-- Settles O42: the port answers by `portTarget`, which reaches a target exactly for the accesses of R74. -/
theorem onlyAlignedWordAccessesAreAccepted : Obligations.OnlyAlignedWordAccessesAreAccepted := by
  refine fun s width addr v => ⟨fun accepted => ?_, fun refused => ?_⟩
  · obtain ⟨g, hg⟩ := (portTarget_accepts_iff s.cfg width addr).mpr accepted
    rw [portRead_ok hg, portWrite_ok v hg]
    exact ⟨rfl, rfl⟩
  · obtain ⟨reason, he⟩ := portTarget_refuses refused
    refine ⟨reason, portRead_error he, portWrite_error v he, fun e rest access hi hr before => ?_⟩
    obtain ⟨d, hstep⟩ := step_eq_acceptInput hr before hi
    exact hstep.trans (acceptInput_refused he access)

/-- Settles O44: the word of bit i is one of the buffer's words, and a read of it returns that word. -/
theorem bufferBitMapping : Obligations.BufferBitMapping := by
  intro s i hc hi
  obtain ⟨wholeWords, _, _⟩ := (config_wf_iff s.cfg).mp hc
  have hk : i / 32 < s.cfg.maxBits / 32 := by omega
  exact ⟨⟨_, portRead_ok (portTarget_bitbuf hc hk), rfl⟩, ⟨_, portRead_ok (portTarget_outbuf hc hk), rfl⟩⟩

end Sys2Proof.Machine
end

section
/-! PROOFS. Failing DECODE commands (41_frame_decoder.md R140, R150): the checks that end a command before its commit, and
the format and the stream each of the four commands walks. -/

namespace Sys2Proof.Machine

/-- A legal LEN leaves the walk as the only check, so its error is the command's error. -/
theorem State.runDecode_walk_error {s : State} {ext stuffed : Bool} {e : CmdError} (hl : s.len.toNat ≤ s.cfg.maxBits)
    (he : decodeFrame ext (decodedStream stuffed s.inputBits) = .error e) : s.runDecode ext stuffed = .error e := by
  rw [State.runDecode_eq, if_pos hl, he]

/-- The LEN check comes before the walk (60_exceptions.md R233). -/
theorem State.runDecode_len_error {s : State} (ext stuffed : Bool) (hl : s.cfg.maxBits < s.len.toNat) :
    s.runDecode ext stuffed = .error { kind := .operandRange, pos := 0x014 } := by
  rw [State.runDecode_eq, if_neg (Nat.not_le_of_lt hl)]

/-- The four DECODE commands run one procedure, each with its format and its stream (41_frame_decoder.md R152 to
R155). -/
theorem exec_decode_eq_conclude (s : State) :
    ∀ p ∈ [(Instr.decodeBaseU, false, false), (Instr.decodeBaseS, false, true),
           (Instr.decodeExtU, true, false), (Instr.decodeExtS, true, true)],
      exec p.1 s = s.conclude (s.runDecode p.2.1 p.2.2) := by
  simp only [List.forall_mem_cons, exec_eq_conclude, commandResult, List.not_mem_nil, false_implies, implies_true,
    and_self]

/-- Settles O29: the command's result is the error of the walk or of the LEN check, and a failing completion writes
STATUS and ERRPOS only. -/
theorem failedDecodeKeepsTheFrameRegisters : Obligations.FailedDecodeKeepsTheFrameRegisters := by
  intro s e p hp
  rw [exec_decode_eq_conclude s p hp]
  refine ⟨fun hl he => ?walk, fun hl => ?len⟩
  case walk => rw [State.runDecode_walk_error hl he]; rfl
  case len => rw [State.runDecode_len_error p.2.1 p.2.2 hl]; rfl

end Sys2Proof.Machine
end

section
/-! PROOFS. Identifier commands (42_identifier.md R190 to R199): the fields of a register word, and each of the four
commands as its operand check followed by its conversion. -/

namespace Sys2Proof.Machine

/-! ### Fields of a word -/

/-- A value that fits its field is not truncated (42_identifier.md R190). -/
theorem setWidth_setWidth_of_toNat_lt {w k : Nat} {x : BitVec w} (hx : x.toNat < 2 ^ k) :
    (x.setWidth k).setWidth w = x := by
  apply BitVec.eq_of_toNat_eq
  simp [Nat.mod_eq_of_lt hx]

/-- A k-bit value packed at bit p of a register of v bits loses no bit when the register has p + k bits. -/
theorem setWidth_shiftLeft_of_toNat_lt {w k v p : Nat} {x : BitVec w} (hx : x.toNat < 2 ^ k) (hv : k + p ≤ v) :
    (((x.setWidth k).setWidth v) <<< p).setWidth w = x <<< p := by
  have inside : x.toNat <<< p < 2 ^ v :=
    calc x.toNat <<< p = x.toNat * 2 ^ p := Nat.shiftLeft_eq ..
      _ < 2 ^ k * 2 ^ p := by gcongr
      _ = 2 ^ (k + p) := (Nat.pow_add ..).symm
      _ ≤ 2 ^ v := Nat.pow_le_pow_right (by decide) hv
  have fits : x.toNat < 2 ^ v := hx.trans_le (Nat.pow_le_pow_right (by decide) (by omega))
  apply BitVec.eq_of_toNat_eq
  simp [Nat.mod_eq_of_lt hx, Nat.mod_eq_of_lt fits, Nat.mod_eq_of_lt inside]

/-- A shift and a mask of k ones read the k bits from p on. -/
theorem toNat_ushiftRight_and_mask {w p k : Nat} (x : BitVec w) {m : BitVec w} (hm : m.toNat = 2 ^ k - 1) :
    ((x >>> p) &&& m).toNat = (x.extractLsb' p k).toNat := by
  rw [BitVec.toNat_and, hm, Nat.and_two_pow_sub_one_eq_mod, BitVec.toNat_ushiftRight, BitVec.extractLsb'_toNat]

theorem extractLsb'_setWidth_eq_mask {w p k : Nat} (x : BitVec w) {m : BitVec w} (hm : m.toNat = 2 ^ k - 1) :
    (x.extractLsb' p k).setWidth w = (x >>> p) &&& m := by
  rw [← BitVec.ofNat_toNat, ← toNat_ushiftRight_and_mask x hm, BitVec.ofNat_toNat, BitVec.setWidth_eq]

/-- The topmost field needs no mask. -/
theorem extractLsb'_setWidth_eq_ushiftRight {w p k : Nat} {x : BitVec w} (hx : x.toNat < 2 ^ (p + k)) :
    (x.extractLsb' p k).setWidth w = x >>> p := by
  have fits : x.toNat >>> p < 2 ^ k := by
    rw [Nat.shiftRight_eq_div_pow]
    exact Nat.div_lt_of_lt_mul (by rwa [← Nat.pow_add])
  rw [← BitVec.ofNat_toNat, BitVec.extractLsb'_toNat, Nat.mod_eq_of_lt fits, ← BitVec.toNat_ushiftRight,
    BitVec.ofNat_toNat, BitVec.setWidth_eq]

/-- A field of a field is a field of the word. -/
theorem extractLsb'_extractLsb'_of_add_le {w a b n k : Nat} (x : BitVec w) (h : b + k ≤ n) :
    (x.extractLsb' a n).extractLsb' b k = x.extractLsb' (a + b) k := by
  apply BitVec.eq_of_getLsbD_eq
  intro i hi
  have inside : b + i < n := by omega
  simp [inside, Nat.add_assoc]

/-! ### The PDU classes -/

theorem pduTypeOf_of_lt {f : Byte} (h : f.toNat < 0xF0) : pduTypeOf f = .pdu1 := if_pos h

theorem pduTypeOf_of_ge {f : Byte} (h : 0xF0 ≤ f.toNat) : pduTypeOf f = .pdu2 := if_neg h.not_gt

section
variable {g : BitVec 18}

theorem destinationAddress_of_pdu1 (h : pduTypeOf (pgnFormat g) = .pdu1) :
    destinationAddress g = some (pgnSpecific g) := by rw [destinationAddress, h]

theorem destinationAddress_of_pdu2 (h : pduTypeOf (pgnFormat g) = .pdu2) : destinationAddress g = none := by
  rw [destinationAddress, h]

theorem groupExtension_of_pdu1 (h : pduTypeOf (pgnFormat g) = .pdu1) : groupExtension g = none := by
  rw [groupExtension, h]

theorem groupExtension_of_pdu2 (h : pduTypeOf (pgnFormat g) = .pdu2) :
    groupExtension g = some (pgnSpecific g) := by rw [groupExtension, h]

end

theorem ofBool_getLsbD_eq_extractLsb' {w : Nat} (x : BitVec w) (i : Nat) :
    BitVec.ofBool (x.getLsbD i) = x.extractLsb' i 1 := by
  apply BitVec.eq_of_getLsbD_eq
  intro j hj
  obtain rfl : j = 0 := by omega
  simp

/-- The PGN's four parts are adjacent and cover it (42_identifier.md R195). -/
theorem pgn_parts_append (g : BitVec 18) :
    BitVec.ofBool (pgnReserved g) ++ BitVec.ofBool (pgnDataPage g) ++ pgnFormat g ++ pgnSpecific g = g := by
  rw [pgnReserved, pgnDataPage, pgnFormat, pgnSpecific, ofBool_getLsbD_eq_extractLsb', ofBool_getLsbD_eq_extractLsb',
    BitVec.extractLsb'_append_extractLsb'_eq_extractLsb' (show 17 = 16 + 1 from rfl),
    BitVec.extractLsb'_append_extractLsb'_eq_extractLsb' (show 16 = 8 + 8 from rfl),
    BitVec.extractLsb'_append_extractLsb'_eq_extractLsb' (show 8 = 0 + 8 from rfl)]
  exact BitVec.extractLsb'_eq_self

theorem pgnSpecific_eq_setWidth (g : BitVec 18) : pgnSpecific g = g.setWidth 8 :=
  (BitVec.setWidth_eq_extractLsb' (by decide)).symm

/-- Settles O37: the format byte is the one field both halves of the classification read. -/
theorem pduClassDecidesDaOrGe : Obligations.PduClassDecidesDaOrGe := by
  intro g
  have format : ((g >>> 8) &&& 0xFF).toNat = (pgnFormat g).toNat := toNat_ushiftRight_and_mask g rfl
  rw [format, ← pgnSpecific_eq_setWidth]
  refine ⟨pgn_parts_append g, fun h => ?pdu1, fun h => ?pdu2⟩
  case pdu1 =>
    have class1 := pduTypeOf_of_lt h
    exact ⟨class1, destinationAddress_of_pdu1 class1, groupExtension_of_pdu1 class1⟩
  case pdu2 =>
    have class2 := pduTypeOf_of_ge h
    exact ⟨class2, destinationAddress_of_pdu2 class2, groupExtension_of_pdu2 class2⟩

/-! ### The commands as an operand check and a conversion -/

section
variable (s : State)

theorem exec_idToDbid : exec .idToDbid s = s.conclude ((fun c => s.writeCanDbId c.toDbId) <$> s.canIdOperand) :=
  (exec_eq_conclude .idToDbid s).trans (congrArg s.conclude (bind_pure_comp _ _))

theorem exec_dbidToId : exec .dbidToId s = s.conclude ((fun d => s.writeCanId d.toId) <$> s.canDbIdOperand) :=
  (exec_eq_conclude .dbidToId s).trans (congrArg s.conclude (bind_pure_comp _ _))

theorem exec_j1939Decode :
    exec .j1939Decode s = s.conclude ((fun v => { s with jd := jdRegs (J1939Id.unpack v) }) <$> s.j1939Operand) :=
  (exec_eq_conclude .j1939Decode s).trans (congrArg s.conclude (bind_pure_comp _ _))

theorem exec_j1939Encode :
    exec .j1939Encode s = s.conclude ((fun j => s.writeCanId (.extended j.raw)) <$> s.j1939FieldsOperand) :=
  (exec_eq_conclude .j1939Encode s).trans (congrArg s.conclude (bind_pure_comp _ _))

end

/-! ### Conversions between bus and database identifiers -/

/-- Settles O34: the operand check by kind; a legal value survives the narrowing to its width and back. -/
theorem idToDbidConverts : Obligations.IdToDbidConverts := by
  refine ⟨by decide, fun s => ⟨fun hk hv => ?standard, fun hk hv => ?extended, ?outOfRange⟩⟩
  case standard =>
    rw [exec_idToDbid, State.canIdOperand_standard s hk, if_pos hv]
    exact congrArg (fun v => s.conclude (.ok { s with resk := .standard, resv := v }))
      (setWidth_setWidth_of_toNat_lt hv)
  case extended =>
    rw [exec_idToDbid, State.canIdOperand_extended s hk, if_pos hv]
    exact congrArg (fun v => s.conclude (.ok { s with resk := .extended, resv := v ||| 0x80000000 }))
      (setWidth_setWidth_of_toNat_lt hv)
  case outOfRange =>
    rintro (⟨hk, hv⟩ | ⟨hk, hv⟩)
    · rw [exec_idToDbid, State.canIdOperand_standard s hk, if_neg hv.not_gt]; rfl
    · rw [exec_idToDbid, State.canIdOperand_extended s hk, if_neg hv.not_gt]; rfl

/-- The mask of R193 leaves a 29-bit value. -/
theorem toNat_and_mask29_lt (v : Word) : (v &&& 0x1FFFFFFF).toNat < 2 ^ 29 :=
  (BitVec.toNat_and ..).trans_lt (Nat.and_lt_two_pow _ (by decide))

/-- Settles O35: an Extended operand has no check, and its mask leaves a value that fits 29 bits. -/
theorem dbidToIdConverts : Obligations.DbidToIdConverts := by
  refine ⟨by decide, fun s => ⟨fun hk hv => ?standard, fun hk => ?extended, fun hk hv => ?outOfRange⟩⟩
  case standard =>
    rw [exec_dbidToId, State.canDbIdOperand_standard s hk, if_pos hv]
    exact congrArg (fun v => s.conclude (.ok { s with resk := .standard, resv := v }))
      (setWidth_setWidth_of_toNat_lt hv)
  case extended =>
    rw [exec_dbidToId, State.canDbIdOperand_extended s hk]
    exact congrArg (fun v => s.conclude (.ok { s with resk := .extended, resv := v }))
      (setWidth_setWidth_of_toNat_lt (toNat_and_mask29_lt s.opv))
  case outOfRange => rw [exec_dbidToId, State.canDbIdOperand_standard s hk, if_neg hv.not_gt]; rfl

/-! ### J1939 identifiers -/

/-- JD_PDU by the class of the format byte: TYPE and GEV with GE, or DAV with DA (42_identifier.md R197, R198). -/
theorem jdRegs_pduWord (j : J1939Id) :
    (jdRegs j).pduWord =
      if (pgnFormat j.pgn).toNat < 0xF0 then 0x2 ||| ((pgnSpecific j.pgn).setWidth 32 <<< 8)
      else 0x5 ||| ((pgnSpecific j.pgn).setWidth 32 <<< 16) := by
  by_cases h : (pgnFormat j.pgn).toNat < 0xF0
  · have class1 := pduTypeOf_of_lt h
    simp [JdRegs.pduWord, jdRegs, h, class1, destinationAddress_of_pdu1 class1, groupExtension_of_pdu1 class1,
      PduType.bit, bitWord]
  · have class2 := pduTypeOf_of_ge (Nat.le_of_not_lt h)
    simp [JdRegs.pduWord, jdRegs, h, class2, destinationAddress_of_pdu2 class2, groupExtension_of_pdu2 class2,
      PduType.bit, bitWord]

/-- The fields of an identifier held in a 32-bit word are those of the word (42_identifier.md R194). -/
theorem unpack_setWidth (v : Word) :
    J1939Id.unpack (v.setWidth 29) =
      { priority := v.extractLsb' 26 3, pgn := v.extractLsb' 8 18, sa := v.extractLsb' 0 8 } := by
  simp [J1939Id.unpack, BitVec.extractLsb'_setWidth_of_le]

theorem unpack_priority_word {v : Word} (hv : v.toNat < 2 ^ 29) :
    (J1939Id.unpack (v.setWidth 29)).priority.setWidth 32 = v >>> 26 := by
  rw [unpack_setWidth]
  exact extractLsb'_setWidth_eq_ushiftRight hv

theorem unpack_pgn_word (v : Word) : (J1939Id.unpack (v.setWidth 29)).pgn.setWidth 32 = (v >>> 8) &&& 0x3FFFF := by
  rw [unpack_setWidth]
  exact extractLsb'_setWidth_eq_mask v rfl

theorem unpack_sa_word (v : Word) : (J1939Id.unpack (v.setWidth 29)).sa.setWidth 32 = v &&& 0xFF := by
  rw [unpack_setWidth]
  simpa using extractLsb'_setWidth_eq_mask v (p := 0) (k := 8) (m := 0xFF) rfl

theorem pgnFormat_extractLsb' (v : Word) : pgnFormat (v.extractLsb' 8 18) = v.extractLsb' 16 8 :=
  extractLsb'_extractLsb'_of_add_le v (by decide)

theorem pgnSpecific_extractLsb' (v : Word) : pgnSpecific (v.extractLsb' 8 18) = v.extractLsb' 8 8 :=
  extractLsb'_extractLsb'_of_add_le v (by decide)

/-- The JD_PDU word of an identifier, read off the operand word. -/
theorem unpack_pduWord (v : Word) :
    (jdRegs (J1939Id.unpack (v.setWidth 29))).pduWord =
      if ((v >>> 16) &&& 0xFF).toNat < 0xF0 then 0x2 ||| (((v >>> 8) &&& 0xFF) <<< 8)
      else 0x5 ||| (((v >>> 8) &&& 0xFF) <<< 16) := by
  rw [jdRegs_pduWord, unpack_setWidth, pgnFormat_extractLsb', pgnSpecific_extractLsb',
    extractLsb'_setWidth_eq_mask v (m := 0xFF) rfl, toNat_ushiftRight_and_mask v (k := 8) rfl]

/-- Settles O36: a success writes the JD_* registers only, and each shows one field of the operand word. -/
theorem j1939DecodeSplitsTheIdentifier : Obligations.J1939DecodeSplitsTheIdentifier := by
  refine ⟨by decide, fun s => ⟨fun hk hv => ?legal, fun hk => ?standard, fun hk hv => ?outOfRange⟩⟩
  case legal =>
    rw [exec_j1939Decode, State.j1939Operand_extended s hk, if_pos hv]
    exact ⟨_, rfl, rfl, unpack_priority_word hv, unpack_pgn_word s.opv, unpack_sa_word s.opv, unpack_pduWord s.opv⟩
  case standard => rw [exec_j1939Decode, State.j1939Operand_standard s hk]; rfl
  case outOfRange => rw [exec_j1939Decode, State.j1939Operand_extended s hk, if_neg hv.not_gt]; rfl

/-- The raw form of R194 of fields that fit: the 29 bits hold all three, so the register shows the words packed as they
are. -/
theorem J1939Id.raw_setWidth {p g a : Word} (hp : p.toNat < 2 ^ 3) (hg : g.toNat < 2 ^ 18) (ha : a.toNat < 2 ^ 8) :
    (J1939Id.raw { priority := p.setWidth 3, pgn := g.setWidth 18, sa := a.setWidth 8 }).setWidth 32 =
      (p <<< 26) ||| (g <<< 8) ||| a := by
  have unshifted : (((a.setWidth 8).setWidth 29) : BitVec 29).setWidth 32 = a := by
    simpa using setWidth_shiftLeft_of_toNat_lt (v := 29) (p := 0) ha (by decide)
  rw [J1939Id.raw, BitVec.setWidth_or, BitVec.setWidth_or, setWidth_shiftLeft_of_toNat_lt hp (by decide),
    setWidth_shiftLeft_of_toNat_lt hg (by decide), unshifted]

/-- Settles O38: the checks in register order, then the packing. -/
theorem j1939EncodePacksTheFields : Obligations.J1939EncodePacksTheFields := by
  refine ⟨by decide, fun s => ?_⟩
  rw [exec_j1939Encode, State.j1939FieldsOperand_eq]
  refine ⟨fun hp hg ha => ?legal, fun hp => ?prio, fun hp hg => ?pgn, fun hp hg ha => ?sa⟩
  case legal =>
    rw [if_pos hp, if_pos hg, if_pos ha]
    exact congrArg (fun v => s.conclude (.ok { s with resk := .extended, resv := v })) (J1939Id.raw_setWidth hp hg ha)
  case prio => rw [if_neg hp.not_gt]; rfl
  case pgn => rw [if_pos hp, if_neg hg.not_gt]; rfl
  case sa => rw [if_pos hp, if_pos hg, if_neg ha.not_gt]; rfl

end Sys2Proof.Machine
end

section
/-! PROOFS. Failing commands (60_exceptions.md R231 to R235): the errors each command can raise, said once per command,
and the ERRCODE and ERRPOS a completion leaves. -/

namespace Sys2Proof.Machine

/-! ### From the error a command raises to the outcome registers -/

section
variable {i : Instr} {s t : State}

/-- ERRCODE names the kind of the error raised: a success leaves 0x00, which is no kind's code. -/
theorem exec_errcode_eq_code_iff (h : exec i s = .next t) (k : ErrorKind) :
    t.errcode = k.code ↔ ∃ q, commandResult i s = .error { kind := k, pos := q } := by
  obtain ⟨u, hr, rfl⟩ | ⟨e, hr, rfl⟩ := exec_cases h
  · simpa [hr] using k.code_ne_zero.symm
  · rw [hr, State.completeError_errcode]
    constructor
    · intro hk
      obtain rfl := ErrorKind.code_injective _ _ hk
      exact ⟨e.pos, rfl⟩
    · rintro ⟨q, hq⟩
      cases hq
      rfl

/-- ERRPOS is the position of the error raised. -/
theorem exec_errpos_of_error {e : CmdError} (h : exec i s = .next t) (hr : commandResult i s = .error e) :
    t.errpos = BitVec.ofNat 12 e.pos := by
  rw [exec_eq_conclude, hr] at h
  cases h
  rfl

/-- A code other than 0x00 comes with ERR = 1 (10_state.md R29). -/
theorem exec_err_of_errcode_ne_zero (h : exec i s = .next t) (hc : t.errcode ≠ 0) : t.err = true := by
  obtain ⟨u, _, rfl⟩ | ⟨e, _, rfl⟩ := exec_cases h
  · exact absurd rfl hc
  · rfl

/-- A command that raises kind k under P only, and always at p, leaves k's code exactly under P, with ERRPOS at p. -/
theorem exec_raises_exactly {k : ErrorKind} {P : Prop} {p : Nat} (h : exec i s = .next t)
    (raises : ∀ q, commandResult i s = .error { kind := k, pos := q } ↔ P ∧ q = p) :
    (t.errcode = k.code ↔ P) ∧ (t.errcode = k.code → t.errpos = BitVec.ofNat 12 p) := by
  have code := exec_errcode_eq_code_iff h k
  constructor
  · simpa [raises] using code
  · intro hc
    obtain ⟨q, hq⟩ := code.mp hc
    obtain ⟨_, rfl⟩ := (raises q).mp hq
    exact exec_errpos_of_error h hq

/-- The same of a command that raises one error only. -/
theorem exec_raises_only {P : Prop} {e : CmdError} (h : exec i s = .next t)
    (raises : ∀ e', commandResult i s = .error e' ↔ P ∧ e' = e) :
    (t.errcode = e.kind.code ↔ P) ∧ (t.errcode = e.kind.code → t.errpos = BitVec.ofNat 12 e.pos) := by
  obtain ⟨k, p⟩ := e
  refine exec_raises_exactly h fun q => ?_
  rw [raises, CmdError.mk.injEq]
  simp

end

/-! ### The errors of each command -/

/-! A command that checks an operand and then writes its results is a map over the operand. -/

section
variable (s : State)

theorem commandResult_idToDbid :
    commandResult .idToDbid s = (fun c => s.writeCanDbId c.toDbId) <$> s.canIdOperand := bind_pure_comp _ _

theorem commandResult_dbidToId :
    commandResult .dbidToId s = (fun d => s.writeCanId d.toId) <$> s.canDbIdOperand := bind_pure_comp _ _

theorem commandResult_j1939Decode :
    commandResult .j1939Decode s = (fun v => { s with jd := jdRegs (J1939Id.unpack v) }) <$> s.j1939Operand :=
  bind_pure_comp _ _

theorem commandResult_j1939Encode :
    commandResult .j1939Encode s = (fun j => s.writeCanId (.extended j.raw)) <$> s.j1939FieldsOperand :=
  bind_pure_comp _ _

end

section
variable {α β : Type} {f : α → β} {x : Except CmdError α} {e e' : CmdError}

theorem map_eq_error_iff : f <$> x = .error e ↔ x = .error e := by cases x <;> simp

theorem map_eq_ok_iff {b : β} : f <$> x = .ok b ↔ ∃ a, x = .ok a ∧ f a = b := by cases x <;> simp

theorem error_eq_error_iff : (.error e' : Except CmdError α) = .error e ↔ e = e' := by rw [Except.error.injEq, eq_comm]

/-- A check's error is raised exactly where the check fails. -/
theorem ite_ok_error_eq_error_iff {c : Prop} [Decidable c] {a : α} :
    (if c then .ok a else .error e' : Except CmdError α) = .error e ↔ ¬ c ∧ e = e' := by
  split_ifs with h <;> simp [h, eq_comm]

end

section
variable (s : State) (e : CmdError)

/-- UNSTUFF checks NWIN before LEN (60_exceptions.md R238). -/
theorem unstuff_error_iff :
    commandResult .unstuff s = .error e ↔
      (s.nwin.toNat = 0 ∨ 31 < s.nwin.toNat ∨ s.cfg.maxBits < s.len.toNat) ∧
      e = { kind := .operandRange, pos := if s.nwin.toNat = 0 ∨ 31 < s.nwin.toNat then 0x010 else 0x014 } := by
  rw [commandResult, State.runUnstuff_eq]
  by_cases hn : s.nwin.toNat = 0 ∨ 31 < s.nwin.toNat
  · have illegal : ¬ (1 ≤ s.nwin.toNat ∧ s.nwin.toNat ≤ 31) := by omega
    rw [if_neg illegal, error_eq_error_iff, ← or_assoc]
    simp [hn]
  · have legal : 1 ≤ s.nwin.toNat ∧ s.nwin.toNat ≤ 31 := by omega
    rw [if_pos legal, ite_ok_error_eq_error_iff, ← or_assoc]
    simp [hn]

/-- A DECODE command's error is that of the LEN check, or the walk's. -/
theorem runDecode_error_iff (ext stuffed : Bool) :
    s.runDecode ext stuffed = .error e ↔
      (s.cfg.maxBits < s.len.toNat ∧ e = { kind := .operandRange, pos := 0x014 }) ∨
      (s.len.toNat ≤ s.cfg.maxBits ∧ decodeFrame ext (decodedStream stuffed s.inputBits) = .error e) := by
  obtain ⟨f, hl, hd, hr⟩ | ⟨e', hl, hd, hr⟩ | ⟨hl, hr⟩ := s.runDecode_cases ext stuffed
  · simp [hr, hd, hl.not_gt]
  · simp [hr, hd, hl, hl.not_gt]
  · simp [hr, hl, hl.not_ge, eq_comm]

theorem idToDbid_error_iff :
    commandResult .idToDbid s = .error e ↔
      ((s.opk = .standard ∧ 2 ^ 11 ≤ s.opv.toNat) ∨ (s.opk = .extended ∧ 2 ^ 29 ≤ s.opv.toNat)) ∧
      e = { kind := .operandRange, pos := 0x024 } := by
  rw [commandResult_idToDbid, map_eq_error_iff]
  cases hk : s.opk with
  | standard => rw [State.canIdOperand_standard s hk, ite_ok_error_eq_error_iff]; simp
  | extended => rw [State.canIdOperand_extended s hk, ite_ok_error_eq_error_iff]; simp

/-- An Extended CANDBID has no illegal value (42_identifier.md R191). -/
theorem dbidToId_error_iff :
    commandResult .dbidToId s = .error e ↔
      (s.opk = .standard ∧ 2 ^ 11 ≤ s.opv.toNat) ∧ e = { kind := .operandRange, pos := 0x024 } := by
  rw [commandResult_dbidToId, map_eq_error_iff]
  cases hk : s.opk with
  | standard => rw [State.canDbIdOperand_standard s hk, ite_ok_error_eq_error_iff]; simp
  | extended => rw [State.canDbIdOperand_extended s hk]; simp

/-- J1939_DECODE checks the variant before the range (60_exceptions.md R238). -/
theorem j1939Decode_error_iff :
    commandResult .j1939Decode s = .error e ↔
      (s.opk = .standard ∧ e = { kind := .conversion, pos := 0x020 }) ∨
      ((s.opk = .extended ∧ 2 ^ 29 ≤ s.opv.toNat) ∧ e = { kind := .operandRange, pos := 0x024 }) := by
  rw [commandResult_j1939Decode, map_eq_error_iff]
  cases hk : s.opk with
  | standard => rw [State.j1939Operand_standard s hk]; simp [eq_comm]
  | extended => rw [State.j1939Operand_extended s hk, ite_ok_error_eq_error_iff]; simp

/-- J1939_ENCODE checks its operands in register order (42_identifier.md R199). -/
theorem j1939Encode_error_iff :
    commandResult .j1939Encode s = .error e ↔
      (7 < s.jePrio.toNat ∨ 0x3FFFF < s.jePgn.toNat ∨ 0xFF < s.jeSa.toNat) ∧
      e = {
        kind := .operandRange
        pos := if 7 < s.jePrio.toNat then 0x030 else if 0x3FFFF < s.jePgn.toNat then 0x034 else 0x038 } := by
  rw [commandResult_j1939Encode, map_eq_error_iff, State.j1939FieldsOperand_eq]
  by_cases hp : s.jePrio.toNat < 2 ^ 3
  · have prioLegal : ¬ 7 < s.jePrio.toNat := by omega
    by_cases hg : s.jePgn.toNat < 2 ^ 18
    · have pgnLegal : ¬ 0x3FFFF < s.jePgn.toNat := by omega
      have saIllegal : ¬ s.jeSa.toNat < 2 ^ 8 ↔ 0xFF < s.jeSa.toNat := Nat.not_lt
      rw [if_pos hp, if_pos hg, ite_ok_error_eq_error_iff, saIllegal]
      simp only [prioLegal, pgnLegal, false_or, if_false]
    · have pgnIllegal : 0x3FFFF < s.jePgn.toNat := by omega
      rw [if_pos hp, if_neg hg, error_eq_error_iff]
      simp [prioLegal, pgnIllegal]
  · have prioIllegal : 7 < s.jePrio.toNat := by omega
    rw [if_neg hp, error_eq_error_iff]
    simp [prioIllegal]

end

/-! ### The errors of a frame walk -/

/-- A walk raises the errors its layout names and no others. -/
theorem walk_error_kind {D : Bits} {layout : List FieldSpec} {cur : Nat} {acc : Fields} {e : CmdError}
    (h : walk D layout cur acc = .error e) :
    ∃ spec ∈ layout, e.kind = spec.missing ∨ ∃ c, spec.must = some (c, e.kind) := by
  induction layout generalizing cur acc with
  | nil => cases h
  | cons spec rest ih =>
    obtain ⟨_, rfl⟩ | ⟨_, c, k, hm, _, rfl⟩ | ⟨_, _, later⟩ := walk_error_cons h
    · exact ⟨spec, List.mem_cons_self, .inl rfl⟩
    · exact ⟨spec, List.mem_cons_self, .inr ⟨c, hm⟩⟩
    · obtain ⟨spec', inRest, hk⟩ := ih later
      exact ⟨spec', List.mem_cons_of_mem spec inRest, hk⟩

/-- The frame errors have the codes from 0x10 on (60_exceptions.md R230). -/
theorem frameLayout_codes (ext : Bool) :
    ∀ spec ∈ frameLayout ext,
      0x10 ≤ spec.missing.code.toNat ∧ ∀ m ∈ spec.must, 0x10 ≤ m.2.code.toNat := by
  cases ext <;> decide

theorem decodeFrame_error_code {ext : Bool} {D : Bits} {e : CmdError} (h : decodeFrame ext D = .error e) :
    0x10 ≤ e.kind.code.toNat := by
  obtain ⟨spec, inLayout, hk⟩ := walk_error_kind (decodeFrame_error.mp h)
  obtain ⟨missing, must⟩ := frameLayout_codes ext spec inLayout
  obtain hk | ⟨c, hk⟩ := hk
  · rwa [hk]
  · exact must _ hk

theorem decodeFrame_ne_error {ext : Bool} {D : Bits} {k : ErrorKind} {q : Nat} (hk : k.code.toNat < 0x10) :
    decodeFrame ext D ≠ .error { kind := k, pos := q } :=
  fun h => hk.not_ge (decodeFrame_error_code h)

/-- OPERAND_RANGE comes from the LEN check alone. -/
theorem runDecode_operandRange_iff (s : State) (ext stuffed : Bool) (q : Nat) :
    s.runDecode ext stuffed = .error { kind := .operandRange, pos := q } ↔
      s.cfg.maxBits < s.len.toNat ∧ q = 0x014 := by
  have noWalkError := decodeFrame_ne_error (ext := ext) (D := decodedStream stuffed s.inputBits)
    (k := .operandRange) (q := q) (by decide)
  simp [runDecode_error_iff, noWalkError]

theorem runDecode_ne_conversion (s : State) (ext stuffed : Bool) (q : Nat) :
    s.runDecode ext stuffed ≠ .error { kind := .conversion, pos := q } := by
  have noWalkError := decodeFrame_ne_error (ext := ext) (D := decodedStream stuffed s.inputBits)
    (k := .conversion) (q := q) (by decide)
  simp [runDecode_error_iff, noWalkError]

/-! ### OPERAND_RANGE and CONVERSION -/

/-- Settles O11: each command's OPERAND_RANGE errors, read off the errors it can raise. -/
theorem operandRangeExactly : Obligations.OperandRangeExactly := by
  intro i s t h
  refine ⟨fun hc => exec_err_of_errcode_ne_zero h (by rw [hc]; decide), ?_⟩
  cases i with
  | unstuff =>
    have range := exec_raises_only h (unstuff_error_iff s)
    rwa [apply_ite (BitVec.ofNat 12)] at range
  | decodeBaseU => exact exec_raises_exactly h (runDecode_operandRange_iff s false false)
  | decodeBaseS => exact exec_raises_exactly h (runDecode_operandRange_iff s false true)
  | decodeExtU => exact exec_raises_exactly h (runDecode_operandRange_iff s true false)
  | decodeExtS => exact exec_raises_exactly h (runDecode_operandRange_iff s true true)
  | idToDbid => exact exec_raises_only h (idToDbid_error_iff s)
  | dbidToId => exact exec_raises_only h (dbidToId_error_iff s)
  | j1939Decode => exact exec_raises_exactly (k := .operandRange) h fun q => by rw [j1939Decode_error_iff]; simp
  | j1939Encode =>
    have range := exec_raises_only h (j1939Encode_error_iff s)
    rwa [apply_ite (BitVec.ofNat 12), apply_ite (BitVec.ofNat 12)] at range

/-- Only J1939_DECODE of a Standard operand raises CONVERSION (60_exceptions.md R235). -/
theorem commandResult_conversion_iff (i : Instr) (s : State) :
    (∃ q, commandResult i s = .error { kind := .conversion, pos := q }) ↔ i = .j1939Decode ∧ s.opk = .standard := by
  cases i with
  | unstuff => simp [unstuff_error_iff]
  | decodeBaseU | decodeBaseS | decodeExtU | decodeExtS => simp [commandResult, runDecode_ne_conversion]
  | idToDbid => simp [idToDbid_error_iff]
  | dbidToId => simp [dbidToId_error_iff]
  | j1939Decode => simp [j1939Decode_error_iff]
  | j1939Encode => simp [j1939Encode_error_iff]

/-- Settles O12: the variant check is J1939_DECODE's first, and no other command has one. -/
theorem conversionOnlyByJ1939Decode : Obligations.ConversionOnlyByJ1939Decode := by
  refine ⟨fun s hk => ?_, fun i s t h => ?_⟩
  · rw [exec_j1939Decode, State.j1939Operand_standard s hk]; rfl
  · exact (exec_errcode_eq_code_iff h .conversion).trans (commandResult_conversion_iff i s)

/-! ### Illegal command words -/

/-- The decoder answers a command for its own word only (30_encoding.md R90, R92). -/
theorem eq_encode_of_decode_ok {w : Word} {i : Instr} (h : decode w = .ok i) : w = encode i := by
  have rows : ∀ r ∈ opcodeTable, r.mask = BitVec.allOnes 32 ∧ r.code = encode r.instr := by decide
  unfold decode at h
  split at h
  next r found =>
    cases h
    obtain ⟨mask, code⟩ := rows r (List.mem_of_find?_eq_some found)
    have selected := List.find?_some found
    rwa [beq_iff_eq, mask, BitVec.and_allOnes, code] at selected
  next => cases h

theorem encode_toNat_bounds (i : Instr) : 1 ≤ (encode i).toNat ∧ (encode i).toNat ≤ 9 := by cases i <;> decide

theorem runCommand_illegal {op : Word} (s : State) (hop : op = 0 ∨ 9 < op.toNat) :
    runCommand op s = .next s.completeIllegal := by
  obtain ⟨i, hd, _⟩ | ⟨_, _, h⟩ := runCommand_cases (op := op) (s := s) rfl
  · obtain ⟨lower, upper⟩ := encode_toNat_bounds i
    rw [← eq_encode_of_decode_ok hd] at lower upper
    obtain rfl | above := hop
    · exact absurd lower (by decide)
    · exact absurd upper above.not_ge
  · exact h

/-- Settles O5: the due completion is that of a word no command has. -/
theorem illegalWordCompletesWithIllegalOp : Obligations.IllegalWordCompletesWithIllegalOp :=
  fun s _ hr hp hd hop => (step_busy_due hr hp hd).trans (runCommand_illegal s hop)

end Sys2Proof.Machine
end

section
/-! PROOFS. The interrupt output (60_exceptions.md R240): what each operation and each input does to STATUS.DONE. -/

namespace Sys2Proof.Machine

/-! ### A completion sets DONE -/

theorem runDecode_ok {s u : State} {ext stuffed : Bool} (h : s.runDecode ext stuffed = .ok u) :
    ∃ f, u = { s with frame := f } := by
  obtain ⟨f, _, _, hr⟩ | ⟨e, _, _, hr⟩ | ⟨_, hr⟩ := s.runDecode_cases ext stuffed
  · rw [hr] at h
    cases h
    exact ⟨f, rfl⟩
  · exact absurd (hr.symm.trans h) (by simp)
  · exact absurd (hr.symm.trans h) (by simp)

/-- What a successful command writes before its completion: the results of its row (30_encoding.md R93). -/
theorem commandResult_ok_cases {i : Instr} {s u : State} (h : commandResult i s = .ok u) :
    (∃ y, u = s.writeUnstuffed y) ∨ (∃ f, u = { s with frame := f }) ∨ (∃ d, u = s.writeCanDbId d) ∨
    (∃ c, u = s.writeCanId c) ∨ (∃ j, u = { s with jd := j }) := by
  cases i with
  | unstuff =>
    rw [commandResult, State.runUnstuff_eq] at h
    split_ifs at h
    cases h
    exact .inl ⟨_, rfl⟩
  | decodeBaseU | decodeBaseS | decodeExtU | decodeExtS => exact .inr (.inl (runDecode_ok h))
  | idToDbid =>
    rw [commandResult_idToDbid, map_eq_ok_iff] at h
    obtain ⟨c, _, rfl⟩ := h
    exact .inr (.inr (.inl ⟨_, rfl⟩))
  | dbidToId =>
    rw [commandResult_dbidToId, map_eq_ok_iff] at h
    obtain ⟨d, _, rfl⟩ := h
    exact .inr (.inr (.inr (.inl ⟨_, rfl⟩)))
  | j1939Decode =>
    rw [commandResult_j1939Decode, map_eq_ok_iff] at h
    obtain ⟨v, _, rfl⟩ := h
    exact .inr (.inr (.inr (.inr ⟨_, rfl⟩)))
  | j1939Encode =>
    rw [commandResult_j1939Encode, map_eq_ok_iff] at h
    obtain ⟨j, _, rfl⟩ := h
    exact .inr (.inr (.inr (.inl ⟨_, rfl⟩)))

theorem exec_ctrlIE {i : Instr} {s t : State} (h : exec i s = .next t) : t.ctrlIE = s.ctrlIE := by
  obtain ⟨u, hr, rfl⟩ | ⟨e, _, rfl⟩ := exec_cases h
  · obtain ⟨y, rfl⟩ | ⟨f, rfl⟩ | ⟨d, rfl⟩ | ⟨c, rfl⟩ | ⟨j, rfl⟩ := commandResult_ok_cases hr <;> simp
  · simp

theorem exec_done {i : Instr} {s t : State} (h : exec i s = .next t) : t.done = true := by
  obtain ⟨u, _, rfl⟩ | ⟨e, _, rfl⟩ := exec_cases h <;> rfl

theorem runCommand_done_ctrlIE {op : Word} {s t : State} (h : runCommand op s = .next t) :
    t.done = true ∧ t.ctrlIE = s.ctrlIE := by
  obtain ⟨i, _, hexec⟩ | ⟨_, _, illegal⟩ := runCommand_cases h
  · exact ⟨exec_done hexec, exec_ctrlIE hexec⟩
  · cases illegal
    exact ⟨rfl, rfl⟩

/-! ### Nothing else sets DONE -/

section
variable {s t : State} (hd : s.done = false)
include hd

theorem writeReg_keeps_done_clear (r : Reg) (v : Word) : (s.writeReg r v).done = false := by
  obtain rfl | rfl | stored | ignored := r.cmd_or_status_or_rw_or_ro
  · rfl
  · simp [State.writeReg, hd]
  · exact (forall_mem_rw (P := fun r => (s.writeReg r v).done = false)).mpr ⟨hd, hd, hd, hd, hd, hd, hd, hd⟩ r stored
  · rwa [writeReg_ro s v r ignored]

theorem writeTarget_keeps_done_clear (g : Target) (v : Word) : (s.writeTarget g v).done = false := by
  cases g with
  | reg r => exact writeReg_keeps_done_clear hd r v
  | bitbuf k => exact hd
  | outbuf k => exact hd

theorem acceptInput_keeps_done_clear {e : Input} (h : s.acceptInput e = .next t) : t.done = false := by
  obtain ⟨_, _, _, _, _, rfl⟩ | ⟨_, _, _, _, _, _, _, rfl⟩ | ⟨_, _, v, g, _, _, _, rfl⟩ | ⟨_, rfl⟩ | ⟨_, rfl⟩ |
    ⟨_, _, rfl⟩ := acceptInput_cases h
  · exact hd
  · exact hd
  · exact writeTarget_keeps_done_clear hd g v
  · exact hd
  · exact hd
  · rfl

theorem inputInReset_keeps_done_clear (e : Input) : (s.inputInReset e).done = false := by
  cases e with
  | read width addr => exact hd
  | write width addr v => exact hd
  | waitIdle =>
    unfold State.inputInReset
    split_ifs
    · exact hd
    · exact hd
  | reset asserted => rfl

/-- A step sets DONE only by being a completion. -/
theorem step_sets_done_by_completion (h : step s = .next t) (ht : t.done = true) :
    ∃ op, s.phase = .busy op ∧ runCommand op s = .next t := by
  have notKept : t.done ≠ false := by simp [ht]
  obtain ⟨rfl, _⟩ | ⟨e, rest, _, _, rfl⟩ | ⟨e, rest, _, _, _, input⟩ | ⟨_, e, rest, d, _, _, _, _, input⟩ |
    ⟨op, _, hp, _, completion⟩ := step_cases h
  · exact absurd hd notKept
  · exact absurd (inputInReset_keeps_done_clear (s := { s with inputs := rest }) hd e) notKept
  · exact absurd (acceptInput_keeps_done_clear (s := { s with inputs := rest }) hd input) notKept
  · exact absurd (acceptInput_keeps_done_clear (s := { s with inputs := rest, delay := d }) hd input) notKept
  · exact ⟨op, hp, completion⟩

end

/-! ### The statement of R240 -/

theorem irq_iff (s : State) : s.irq = true ↔ s.ctrlIE = true ∧ s.done = true := Bool.and_eq_true_iff

theorem irq_eq_ctrlIE_of_done {s : State} (hd : s.done = true) : s.irq = s.ctrlIE := by simp [State.irq, hd]

theorem irq_eq_false_of_done {s : State} (hd : s.done = false) : s.irq = false := by simp [State.irq, hd]

theorem irq_eq_false_of_ctrlIE {s : State} (hie : s.ctrlIE = false) : s.irq = false := by simp [State.irq, hie]

/-- Settles O47: a completion is the one event that sets DONE; each way to lower irq clears one of its two factors. -/
theorem interruptFollowsDone : Obligations.InterruptFollowsDone := by
  refine ⟨irq_iff, fun op s t h => ?completion, fun s t h hs ht => step_sets_done_by_completion hs h ht,
    fun s v => irq_eq_false_of_done rfl, fun s v hv => irq_eq_false_of_done ?acknowledged,
    fun s v hv => ⟨irq_eq_false_of_ctrlIE hv, rfl⟩, fun s asserted => irq_eq_false_of_done rfl⟩
  case completion =>
    obtain ⟨done, ie⟩ := runCommand_done_ctrlIE h
    exact ⟨done, (irq_eq_ctrlIE_of_done done).trans ie⟩
  case acknowledged => simp [State.writeReg, hv]

end Sys2Proof.Machine
end

section
/-! PROOFS. Reset (70_reset_and_hazards.md R260, R262): the reset values and the reset event, and the constant fields
that tell a successful frame walk from the reset value of F_BITS. -/

namespace Sys2Proof.Machine

/-! ### The constant fields of a successful walk -/

theorem Fields.bitsOf_append_of_mem {fs : Fields} (gs : Fields) {f : Field} (h : f ∈ fs.map Prod.fst) :
    Fields.bitsOf (fs ++ gs) f = fs.bitsOf f := by
  induction fs with
  | nil => simp at h
  | cons p fs ih =>
    by_cases hp : p.1 = f
    · simp [Fields.bitsOf, hp]
    · have inRest : f ∈ fs.map Prod.fst := (List.mem_cons.mp h).resolve_left (Ne.symm hp)
      simpa [Fields.bitsOf, hp] using ih inRest

theorem Fields.bitsOf_append_of_notMem {fs : Fields} (gs : Fields) {f : Field} (h : f ∉ fs.map Prod.fst) :
    Fields.bitsOf (fs ++ gs) f = gs.bitsOf f := by
  induction fs with
  | nil => rfl
  | cons p fs ih =>
    obtain ⟨hp, notInRest⟩ : p.1 ≠ f ∧ f ∉ fs.map Prod.fst := by simpa [eq_comm] using h
    simpa [Fields.bitsOf, hp] using ih notInRest

section
variable {D : Bits} {layout : List FieldSpec} {cur fin : Nat} {acc fs : Fields}

/-- The walk only appends to the fields taken so far. -/
theorem walk_keeps_bitsOf (h : walk D layout cur acc = .ok (fs, fin)) {f : Field} (hf : f ∈ acc.map Prod.fst) :
    fs.bitsOf f = acc.bitsOf f := by
  induction layout generalizing cur acc with
  | nil => cases h; rfl
  | cons spec rest ih =>
    obtain ⟨_, _, later⟩ := walk_ok_cons h
    exact (ih later (by simp [hf])).trans (Fields.bitsOf_append_of_mem _ hf)

/-- A field with a constant holds it after a successful walk of a layout that names each field once
(41_frame_decoder.md R142). -/
theorem walk_constant_value (h : walk D layout cur acc = .ok (fs, fin)) (once : (layout.map FieldSpec.field).Nodup)
    {spec : FieldSpec} (hs : spec ∈ layout) (fresh : spec.field ∉ acc.map Prod.fst) {c : Nat} {k : ErrorKind}
    (hm : spec.must = some (c, k)) : fs.value spec.field = c := by
  induction layout generalizing cur acc with
  | nil => cases hs
  | cons first rest ih =>
    obtain ⟨_, holds, later⟩ := walk_ok_cons h
    obtain ⟨firstOnce, restOnce⟩ := List.nodup_cons.mp once
    obtain rfl | inRest := List.mem_cons.mp hs
    · rw [Fields.value, walk_keeps_bitsOf later (by simp), Fields.bitsOf_append_of_notMem _ fresh]
      simpa [Fields.bitsOf] using holds c k hm
    · have other : spec.field ≠ first.field := fun same => firstOnce (same ▸ List.mem_map_of_mem inRest)
      exact ih later restOnce inRest (by simpa [other] using fresh)

end

theorem frameLayout_fields_nodup (ext : Bool) : ((frameLayout ext).map FieldSpec.field).Nodup := by
  cases ext <;> decide

theorem ackdel_mem_frameLayout (ext : Bool) :
    ⟨.ackdel, .bits 1, .ackdelMissing, some (1, .ackdelMustBeOne)⟩ ∈ frameLayout ext := by
  cases ext <;> decide

/-- Bit 8 of F_BITS is ACKDEL (41_frame_decoder.md R149). -/
theorem frameBits_bit8_of_ackdel {fs : Fields} (h : fs.value .ackdel = 1) : (frameBits fs)[8] = true := by
  simp [frameBits, h]

/-- ACKDEL is 1 in every accepted frame. -/
theorem decodeFrame_bits_bit8 {ext : Bool} {D : Bits} {f : FrameRegs} (h : decodeFrame ext D = .ok f) :
    f.bits[8] = true := by
  obtain ⟨fs, fin, hw, rfl⟩ := decodeFrame_ok h
  exact frameBits_bit8_of_ackdel
    (walk_constant_value hw (frameLayout_fields_nodup ext) (ackdel_mem_frameLayout ext) (by simp) rfl)

/-! ### What a successful command leaves -/

theorem exec_success {i : Instr} {s t : State} (h : exec i s = .next t) (he : t.err = false) :
    ∃ u, commandResult i s = .ok u ∧ t = u.completeOk := by
  obtain success | ⟨e, _, rfl⟩ := exec_cases h
  · exact success
  · exact absurd he (by simp)

theorem runDecode_ok_frame {s u : State} {ext stuffed : Bool} (h : s.runDecode ext stuffed = .ok u) :
    decodeFrame ext (decodedStream stuffed s.inputBits) = .ok u.frame := by
  obtain ⟨f, _, hf, hr⟩ | ⟨e, _, _, hr⟩ | ⟨_, hr⟩ := s.runDecode_cases ext stuffed
  · cases hr.symm.trans h
    exact hf
  · cases hr.symm.trans h
  · cases hr.symm.trans h

theorem commandResult_decode {i : Instr} (hi : i ∈ [Instr.decodeBaseU, .decodeBaseS, .decodeExtU, .decodeExtS])
    (s : State) : ∃ ext stuffed, commandResult i s = s.runDecode ext stuffed := by
  simp only [List.mem_cons, List.not_mem_nil, or_false] at hi
  obtain rfl | rfl | rfl | rfl := hi <;> exact ⟨_, _, rfl⟩

theorem exec_decode_success_fBits_ne_zero {i : Instr} {s t : State}
    (hi : i ∈ [Instr.decodeBaseU, .decodeBaseS, .decodeExtU, .decodeExtS]) (h : exec i s = .next t)
    (he : t.err = false) : t.readReg .fBits ≠ 0 := by
  obtain ⟨u, hr, rfl⟩ := exec_success h he
  obtain ⟨ext, stuffed, hd⟩ := commandResult_decode hi s
  have bit8 := decodeFrame_bits_bit8 (runDecode_ok_frame (hd.symm.trans hr))
  intro zero
  have bit8Clear := congrArg (·[8]) zero
  simp [State.readReg, bit8] at bit8Clear

/-- The PDU class decides which of DA and GE is there (42_identifier.md R197). -/
theorem jdRegs_da_ne_ge (j : J1939Id) : (jdRegs j).da.isSome ≠ (jdRegs j).ge.isSome := by
  change (destinationAddress j.pgn).isSome ≠ (groupExtension j.pgn).isSome
  cases hc : pduTypeOf (pgnFormat j.pgn) with
  | pdu1 => simp [destinationAddress_of_pdu1 hc, groupExtension_of_pdu1 hc]
  | pdu2 => simp [destinationAddress_of_pdu2 hc, groupExtension_of_pdu2 hc]

theorem exec_j1939Decode_success_da_ne_ge {s t : State} (h : exec .j1939Decode s = .next t) (he : t.err = false) :
    t.jd.da.isSome ≠ t.jd.ge.isSome := by
  obtain ⟨u, hr, rfl⟩ := exec_success h he
  obtain ⟨v, _, rfl⟩ := map_eq_ok_iff.mp ((commandResult_j1939Decode s).symm.trans hr)
  exact jdRegs_da_ne_ge _

/-! ### Reset values -/

theorem statusWord_resetWith (cfg : Config) : (State.resetWith cfg).statusWord = 0 := by
  simp [State.statusWord, State.resetWith, Phase.isBusy, bitWord]

theorem JdRegs.pduWord_zero : JdRegs.zero.pduWord = 0 := by decide

/-- The table of R262: the two composed words are 0 part by part, every other register is one field. -/
theorem readReg_resetWith (cfg : Config) (r : Reg) :
    (State.resetWith cfg).readReg r = if r = .nwin then 0x00000005 else 0x00000000 := by
  cases r
  case status => exact statusWord_resetWith cfg
  case jdPdu => exact JdRegs.pduWord_zero
  all_goals rfl

/-- Settles O52: the table register by register; a J1939_DECODE leaves DA or GE, and a DECODE the ACKDEL bit. -/
theorem resetValues : Obligations.ResetValues :=
  ⟨readReg_resetWith, fun _ => ⟨rfl, rfl⟩, fun _ _ => exec_j1939Decode_success_da_ne_ge,
    fun _ _ _ => exec_decode_success_fBits_ne_zero⟩

/-! ### The reset event -/

/-- A reset leaves no trace of the state before it in any register (R260). -/
theorem readReg_applyReset (s : State) (asserted : Bool) (r : Reg) :
    (s.applyReset asserted).readReg r = (State.resetWith s.cfg).readReg r := by
  cases r <;> rfl

theorem step_inReset {s : State} {e : Input} {rest : List Input} (hr : s.inReset = true) (hi : s.inputs = e :: rest) :
    step s = .next (({ s with inputs := rest } : State).inputInReset e) := by
  simp [step, hr, hi]

/-- A change of the reset line is carried out in reset and outside it alike. -/
theorem step_reset {s : State} {asserted : Bool} {rest : List Input} (hi : s.inputs = .reset asserted :: rest)
    (before : s.inReset = true ∨ s.phase = .idle ∨ s.delay ≠ 0) :
    step s = .next (({ s with inputs := rest } : State).applyReset asserted) := by
  cases hr : s.inReset with
  | true => exact step_inReset hr hi
  | false =>
    obtain ⟨d, hstep⟩ := step_eq_acceptInput hr (before.resolve_left (by simp [hr])) hi
    exact hstep

/-- Settles O53: the next state is that of the reset event, whose registers are those of the state after reset. -/
theorem resetEvent : Obligations.ResetEvent := by
  intro s asserted rest hi before
  exact ⟨_, step_reset hi before, rfl, rfl, rfl, readReg_applyReset _ asserted, Memory.afterReset_addrs _ _, rfl, rfl⟩

end Sys2Proof.Machine
end

section
/-! PROOFS. The command words (30_encoding.md R90, R92, R94): decode as the inverse of encode, the words it rejects, and a
word as its four byte lanes. -/

namespace Sys2Proof.Machine

/-! ### Decoding a command word -/

theorem decode_encode (i : Instr) : decode (encode i) = .ok i := by cases i <;> decide

theorem decode_eq_ok_iff (w : Word) (i : Instr) : decode w = .ok i ↔ w = encode i := by
  refine ⟨eq_encode_of_decode_ok, fun h => ?_⟩
  rw [h, decode_encode]

/-- A rejection names the word it rejects. -/
theorem decode_eq_error_or_encode (w : Word) : decode w = .error (.illegalCode w) ∨ ∃ i, w = encode i := by
  cases hd : decode w with
  | ok i => exact .inr ⟨i, eq_encode_of_decode_ok hd⟩
  | error e =>
    unfold decode at hd
    split at hd
    next => cases hd
    next => cases hd; exact .inl rfl

/-- The nine codes fill the range from 1 to 9 (30_encoding.md R90). -/
theorem exists_eq_encode_iff (w : Word) : (∃ i, w = encode i) ↔ 1 ≤ w.toNat ∧ w.toNat ≤ 9 := by
  constructor
  · rintro ⟨i, rfl⟩
    exact encode_toNat_bounds i
  · have codes : ∀ c : Fin 10, 1 ≤ c.val → ∃ r ∈ opcodeTable, encode r.instr = BitVec.ofNat 32 c.val := by decide
    rintro ⟨lower, upper⟩
    obtain ⟨r, _, hr⟩ := codes ⟨w.toNat, by omega⟩ lower
    exact ⟨r.instr, by simpa using hr.symm⟩

theorem decode_eq_error_iff (w : Word) : decode w = .error (.illegalCode w) ↔ w = 0 ∨ 9 < w.toNat := by
  have outside : (w = 0 ∨ 9 < w.toNat) ↔ ¬ ∃ i, w = encode i := by
    have zero : w = 0 ↔ w.toNat = 0 := by simp [BitVec.toNat_eq]
    rw [exists_eq_encode_iff, zero]
    omega
  rw [outside]
  constructor
  · rintro rejected ⟨i, rfl⟩
    rw [decode_encode] at rejected
    cases rejected
  · exact (decode_eq_error_or_encode w).resolve_right

/-! ### Byte lanes -/

/-- A word is what its four byte lanes make (20_memory.md R73). -/
theorem commandWord_lanes (w : Word) :
    commandWord (w.extractLsb' 0 8) (w.extractLsb' 8 8) (w.extractLsb' 16 8) (w.extractLsb' 24 8) = w :=
  laneByte_append w

theorem decodeBytes_commandBytes (i : Instr) (rest : List Byte) :
    decodeBytes (commandBytes (encode i) ++ rest) = .ok (i, rest) := by
  simp [commandBytes, decodeBytes, commandWord_lanes, decode_encode]

/-- Settles O2: the table has one row per command with the full mask, and its codes are the words 1 to 9. -/
theorem decodeAndEncodeAgree : Obligations.DecodeAndEncodeAgree :=
  ⟨decode_eq_ok_iff, decode_eq_error_iff, fun i rest _ => decodeBytes_commandBytes i rest, commandWord_lanes⟩

/-- Settles O1: each word is its command's code, and the two neighbours lie outside 1 to 9. -/
theorem opcodeWordsDecode : Obligations.OpcodeWordsDecode :=
  ⟨decode_encode .unstuff, decode_encode .decodeBaseU, decode_encode .decodeBaseS, decode_encode .decodeExtU,
    decode_encode .decodeExtS, decode_encode .idToDbid, decode_encode .dbidToId, decode_encode .j1939Decode,
    decode_encode .j1939Encode, (decode_eq_error_iff _).mpr (.inr (by decide)),
    (decode_eq_error_iff _).mpr (.inr (by decide))⟩

end Sys2Proof.Machine
end

section
/-! PROOFS. Accepted streams (41_frame_decoder.md R141 to R149): a walk accepts exactly the streams that begin with
fields that fit its layout, and the fields that fit a layout are the fields of a reference frame. -/

namespace Sys2Proof.Machine

/-! ### Fields that fit a layout -/

/-- The bits of a list of fields, one field after the other. -/
def Fields.stream (fs : Fields) : Bits := fs.flatMap Prod.snd

@[simp] theorem Fields.stream_nil : Fields.stream [] = [] := rfl

@[simp] theorem Fields.stream_cons (p : Field × Bits) (fs : Fields) : Fields.stream (p :: fs) = p.2 ++ fs.stream := rfl

/-- The fields `fs` fit the rows of a layout, given the fields before them: one field a row, as wide as the row asks and
with the constant of the row. -/
def fitsLayout (layout : List FieldSpec) (before fs : Fields) : Prop :=
  match layout with
  | [] => fs = []
  | spec :: rest =>
    ∃ x later, fs = (spec.field, x) :: later ∧ x.length = spec.size before ∧ constantHolds spec.must x ∧
      fitsLayout rest (before ++ [(spec.field, x)]) later

theorem fitsLayout_cons (spec : FieldSpec) (rest : List FieldSpec) (before fs : Fields) :
    fitsLayout (spec :: rest) before fs ↔
      ∃ x later, fs = (spec.field, x) :: later ∧ x.length = spec.size before ∧ constantHolds spec.must x ∧
        fitsLayout rest (before ++ [(spec.field, x)]) later := Iff.rfl

/-- A slice is what a field of its width takes from the front of the rest of the stream. -/
theorem slice_eq_of_append {D x y : Bits} {cur : Nat} (h : D.drop cur = x ++ y) : slice D cur x.length = x := by
  simp [slice, h]

theorem drop_eq_slice_append (D : Bits) (cur w : Nat) : D.drop cur = slice D cur w ++ D.drop (cur + w) := by
  rw [slice, ← List.drop_drop, List.take_append_drop]

/-- A walk of fields that fit takes them and stops after them. -/
theorem walk_of_fitsLayout {D y : Bits} {layout : List FieldSpec} {cur : Nat} {before fs : Fields}
    (hf : fitsLayout layout before fs) (hD : D.drop cur = fs.stream ++ y) (hc : cur ≤ D.length) :
    walk D layout cur before = .ok (before ++ fs, cur + fs.stream.length) := by
  induction layout generalizing cur before fs with
  | nil =>
    obtain rfl := hf
    simp [walk]
  | cons spec rest ih =>
    obtain ⟨x, later, rfl, hx, holds, fits⟩ := hf
    have whole : D.drop cur = x ++ (Fields.stream later ++ y) := by simpa using hD
    have taken : slice D cur (spec.size before) = x := by rw [← hx, slice_eq_of_append whole]
    have room : cur + spec.size before ≤ D.length := by
      have lengths := congrArg List.length whole
      simp only [List.length_drop, List.length_append] at lengths
      omega
    have remaining : D.drop (cur + spec.size before) = Fields.stream later ++ y := by
      rw [← List.drop_drop, whole, ← hx, List.drop_left]
    rw [walk_pass D spec rest cur before room (taken ▸ holds), taken, ih fits remaining room]
    simp [hx, Nat.add_assoc]

/-- A walk that succeeds took fields that fit. -/
theorem fitsLayout_of_walk {D : Bits} {layout : List FieldSpec} {cur fin : Nat} {before all : Fields}
    (h : walk D layout cur before = .ok (all, fin)) :
    ∃ (fs : Fields) (y : Bits), fitsLayout layout before fs ∧ D.drop cur = fs.stream ++ y ∧ all = before ++ fs ∧
      fin = cur + fs.stream.length := by
  induction layout generalizing cur before with
  | nil =>
    cases h
    exact ⟨[], _, rfl, rfl, by simp, rfl⟩
  | cons spec rest ih =>
    obtain ⟨room, holds, later⟩ := walk_ok_cons h
    obtain ⟨fs, y, fits, remaining, rfl, rfl⟩ := ih later
    have width := slice_length D cur _ room
    refine ⟨(spec.field, slice D cur (spec.size before)) :: fs, y, ⟨_, fs, rfl, width, holds, fits⟩, ?_, by simp, ?_⟩
    · rw [drop_eq_slice_append D cur (spec.size before), remaining, Fields.stream_cons, List.append_assoc]
    · simp [width, Nat.add_assoc]

/-- The decoder accepts exactly the streams that begin with fields that fit its layout. -/
theorem decodeFrame_eq_ok_iff {ext : Bool} {D : Bits} {r : FrameRegs} :
    decodeFrame ext D = .ok r ↔
      ∃ (fs : Fields) (y : Bits), fitsLayout (frameLayout ext) [] fs ∧ D = fs.stream ++ y ∧ r = frameRegs ext D fs fs.stream.length := by
  constructor
  · intro h
    obtain ⟨all, fin, hw, rfl⟩ := decodeFrame_ok h
    obtain ⟨fs, y, fits, hD, rfl, rfl⟩ := fitsLayout_of_walk hw
    exact ⟨_, y, fits, by simpa using hD, by simp⟩
  · rintro ⟨fs, y, fits, hD, rfl⟩
    have hw := walk_of_fitsLayout fits (D := D) (cur := 0) hD (Nat.zero_le _)
    simp [decodeFrame, hw]

/-! ### The bits of a row -/

@[simp] theorem val_sentBits {w : Nat} (v : BitVec w) : val (sentBits w v) = v.toNat :=
  val_fieldBits_of_lt w v.toNat v.isLt

@[simp] theorem val_singleton (b : Bool) : val [b] = b.toNat := by simp [val]

theorem eq_sentBits_of_length {w : Nat} {x : Bits} (h : x.length = w) : x = sentBits w (BitVec.ofNat w (val x)) := by
  subst h
  rw [sentBits, BitVec.toNat_ofNat, Nat.mod_eq_of_lt (val_lt x), fieldBits_val]

section
variable {f : Field} {m k : ErrorKind} {rest : List FieldSpec} {before fs : Fields}

/-- A row with no constant holds any value of its width. -/
theorem fitsLayout_free_iff {w : Nat} :
    fitsLayout (⟨f, .bits w, m, none⟩ :: rest) before fs ↔
      ∃ (v : BitVec w) (later : Fields), fs = (f, sentBits w v) :: later ∧
        fitsLayout rest (before ++ [(f, sentBits w v)]) later := by
  constructor
  · rintro ⟨x, later, rfl, hx, _, fits⟩
    rw [eq_sentBits_of_length hx] at fits ⊢
    exact ⟨_, later, rfl, fits⟩
  · rintro ⟨v, later, rfl, fits⟩
    exact ⟨_, later, rfl, sentBits_length w v, by simp [constantHolds], fits⟩

/-- A row of one bit with no constant. -/
theorem fitsLayout_bit_iff :
    fitsLayout (⟨f, .bits 1, m, none⟩ :: rest) before fs ↔
      ∃ (b : Bool) (later : Fields), fs = (f, [b]) :: later ∧ fitsLayout rest (before ++ [(f, [b])]) later := by
  constructor
  · rintro ⟨x, later, rfl, hx, _, fits⟩
    obtain ⟨b, rfl⟩ := List.length_eq_one_iff.mp hx
    exact ⟨b, later, rfl, fits⟩
  · rintro ⟨b, later, rfl, fits⟩
    exact ⟨_, later, rfl, rfl, by simp [constantHolds], fits⟩

/-- A row with a constant holds the constant's bits. -/
theorem fitsLayout_const_iff {w c : Nat} (hc : c < 2 ^ w) :
    fitsLayout (⟨f, .bits w, m, some (c, k)⟩ :: rest) before fs ↔
      ∃ later : Fields, fs = (f, fieldBits w c) :: later ∧ fitsLayout rest (before ++ [(f, fieldBits w c)]) later := by
  constructor
  · rintro ⟨x, later, rfl, hx, holds, fits⟩
    obtain rfl : w = x.length := hx.symm
    obtain rfl : val x = c := holds c k rfl
    rw [fieldBits_val]
    exact ⟨later, rfl, fits⟩
  · rintro ⟨later, rfl, fits⟩
    refine ⟨_, later, rfl, fieldBits_length w c, ?_, fits⟩
    intro c' k' same
    cases same
    exact val_fieldBits_of_lt w c hc

/-! ### The payload -/

@[simp] theorem payloadBits_nil : payloadBits [] = [] := rfl

@[simp] theorem payloadBits_cons (b : Byte) (data : List Byte) :
    payloadBits (b :: data) = sentBits 8 b ++ payloadBits data := rfl

@[simp] theorem payloadBits_length (data : List Byte) : (payloadBits data).length = 8 * data.length := by
  induction data with
  | nil => rfl
  | cons b data ih => simp [ih]; omega

/-- A whole number of bytes is the payload of some bytes. -/
theorem exists_payloadBits_eq {n : Nat} {x : Bits} (hx : x.length = 8 * n) :
    ∃ data : List Byte, data.length = n ∧ x = payloadBits data := by
  induction n generalizing x with
  | zero => exact ⟨[], rfl, List.eq_nil_of_length_eq_zero hx⟩
  | succ n ih =>
    have first : (x.take 8).length = 8 := by simp; omega
    obtain ⟨data, hlen, hdata⟩ := ih (x := x.drop 8) (by simp; omega)
    refine ⟨BitVec.ofNat 8 (val (x.take 8)) :: data, by simp [hlen], ?_⟩
    rw [payloadBits_cons, ← hdata, ← eq_sentBits_of_length first, List.take_append_drop]

/-- DATA holds as many bytes as DLC says (41_frame_decoder.md R145). -/
theorem fitsLayout_data_iff :
    fitsLayout (⟨f, .dlcBytes, m, none⟩ :: rest) before fs ↔
      ∃ (data : List Byte) (later : Fields), data.length = before.value .dlc ∧ fs = (f, payloadBits data) :: later ∧
        fitsLayout rest (before ++ [(f, payloadBits data)]) later := by
  constructor
  · rintro ⟨x, later, rfl, hx, _, fits⟩
    obtain ⟨data, hlen, rfl⟩ := exists_payloadBits_eq hx
    exact ⟨data, later, hlen, rfl, fits⟩
  · rintro ⟨data, later, hlen, rfl, fits⟩
    refine ⟨_, later, rfl, ?_, by simp [constantHolds], fits⟩
    rw [payloadBits_length, hlen, FieldSpec.size]

end

theorem slice_payloadBits {data : List Byte} {k : Nat} (hk : k < data.length) :
    slice (payloadBits data) (8 * k) 8 = sentBits 8 data[k] := by
  induction data generalizing k with
  | nil => simp at hk
  | cons b data ih =>
    cases k with
    | zero => simp [slice]
    | succ k =>
      have skip : 8 * (k + 1) = (sentBits 8 b).length + 8 * k := by simp; omega
      rw [slice, payloadBits_cons, skip, ← List.drop_drop, List.drop_left]
      simpa [slice] using ih (k := k) (by simpa using hk)

theorem payloadByte_payloadBits (data : List Byte) (k : Nat) : payloadByte (payloadBits data) k = data.getD k 0 := by
  by_cases hk : k < data.length
  · simp [payloadByte, hk, slice_payloadBits hk]
  · simp [payloadByte, hk]

theorem payloadWord_payloadBits (data : List Byte) (j : Nat) :
    payloadWord (payloadBits data) j = payloadWordOf data j := by
  simp only [payloadWord, payloadByte_payloadBits, payloadWordOf]

/-! ### The fields of a reference frame -/

/-- The fields both formats end with, each with its bits. -/
def tailFields (data : List Byte) (crc : BitVec 15) (ackslot : Bool) : Fields := [
  (.dlc, fieldBits 4 data.length), (.data, payloadBits data), (.crc, sentBits 15 crc), (.crcdel, [true]),
  (.ackslot, [ackslot]), (.ackdel, [true]), (.eof, fieldBits 7 0x7F), (.ifs, fieldBits 3 0x7)]

/-- The fields of a base frame, each with its bits. -/
def BaseFrame.fields (f : BaseFrame) : Fields :=
  [(.sof, [false]), (.id, sentBits 11 f.id), (.rtr, [f.rtr]), (.ide, [false]), (.r0, [f.r0])]
    ++ tailFields f.data f.crc f.ackslot

/-- The fields of an extended frame, each with its bits. -/
def ExtFrame.fields (f : ExtFrame) : Fields :=
  [(.sof, [false]), (.ida, sentBits 11 f.ida), (.srr, [true]), (.ide, [true]), (.idb, sentBits 18 f.idb),
    (.rtr, [f.rtr]), (.r1, [f.r1]), (.r0, [f.r0])] ++ tailFields f.data f.crc f.ackslot

theorem tailFields_stream (data : List Byte) (crc : BitVec 15) (ackslot : Bool) :
    (tailFields data crc ackslot).stream = tailBits data crc ackslot := by
  simp [tailFields, tailBits]

theorem BaseFrame.fields_stream (f : BaseFrame) : f.fields.stream = f.bits := by
  simp [BaseFrame.fields, tailFields_stream, BaseFrame.bits]

theorem ExtFrame.fields_stream (f : ExtFrame) : f.fields.stream = f.bits := by
  simp [ExtFrame.fields, tailFields_stream, ExtFrame.bits]

theorem tailBits_length (data : List Byte) (crc : BitVec 15) (ackslot : Bool) :
    (tailBits data crc ackslot).length = 32 + 8 * data.length := by
  simp [tailBits]; omega

theorem BaseFrame.bits_length (f : BaseFrame) : f.bits.length = 47 + 8 * f.data.length := by
  simp [BaseFrame.bits, tailBits_length]; omega

theorem ExtFrame.bits_length (f : ExtFrame) : f.bits.length = 67 + 8 * f.data.length := by
  simp [ExtFrame.bits, tailBits_length]; omega

/-- One-bit constants as the layout tables write them. -/
theorem fieldBits_one : fieldBits 1 0 = [false] ∧ fieldBits 1 1 = [true] := by decide

/-- DLC is a number of bytes, at most 15 as it has four bits (41_frame_decoder.md R145). -/
theorem fitsLayout_tailLayout_iff {before fs : Fields} (fresh : Field.dlc ∉ before.map Prod.fst) :
    fitsLayout tailLayout before fs ↔
      ∃ data crc ackslot, data.length ≤ 15 ∧ fs = tailFields data crc ackslot := by
  have dlcValue : ∀ v : BitVec 4, Fields.value (before ++ [(.dlc, sentBits 4 v)]) .dlc = v.toNat := by
    intro v
    rw [Fields.value, Fields.bitsOf_append_of_notMem _ fresh]
    exact val_sentBits v
  obtain ⟨zero, one⟩ := fieldBits_one
  constructor
  · intro fits
    obtain ⟨v, _, rfl, afterDlc⟩ := fitsLayout_free_iff.mp fits
    obtain ⟨data, _, hlen, rfl, afterData⟩ := fitsLayout_data_iff.mp afterDlc
    obtain ⟨crc, _, rfl, afterCrc⟩ := fitsLayout_free_iff.mp afterData
    obtain ⟨_, rfl, afterCrcdel⟩ := (fitsLayout_const_iff (by decide)).mp afterCrc
    obtain ⟨ackslot, _, rfl, afterAckslot⟩ := fitsLayout_bit_iff.mp afterCrcdel
    obtain ⟨_, rfl, afterAckdel⟩ := (fitsLayout_const_iff (by decide)).mp afterAckslot
    obtain ⟨_, rfl, afterEof⟩ := (fitsLayout_const_iff (by decide)).mp afterAckdel
    obtain ⟨_, rfl, rfl⟩ := (fitsLayout_const_iff (by decide)).mp afterEof
    rw [dlcValue] at hlen
    refine ⟨data, crc, ackslot, by omega, ?_⟩
    rw [tailFields, hlen, one]
    rfl
  · rintro ⟨data, crc, ackslot, hlen, rfl⟩
    have dlc : fieldBits 4 data.length = sentBits 4 (BitVec.ofNat 4 data.length) := by
      rw [sentBits, BitVec.toNat_ofNat, Nat.mod_eq_of_lt (by omega)]
    refine fitsLayout_free_iff.mpr ⟨BitVec.ofNat 4 data.length, _, by rw [← dlc]; rfl, ?_⟩
    refine fitsLayout_data_iff.mpr ⟨data, _, ?_, rfl, ?_⟩
    · rw [dlcValue, BitVec.toNat_ofNat, Nat.mod_eq_of_lt (by omega)]
    refine fitsLayout_free_iff.mpr ⟨crc, _, rfl, ?_⟩
    refine (fitsLayout_const_iff (by decide)).mpr ⟨_, by rw [one], ?_⟩
    refine fitsLayout_bit_iff.mpr ⟨ackslot, _, rfl, ?_⟩
    refine (fitsLayout_const_iff (by decide)).mpr ⟨_, by rw [one], ?_⟩
    refine (fitsLayout_const_iff (by decide)).mpr ⟨_, rfl, ?_⟩
    exact (fitsLayout_const_iff (by decide)).mpr ⟨[], rfl, rfl⟩

theorem fitsLayout_baseLayout_iff {fs : Fields} :
    fitsLayout baseLayout [] fs ↔ ∃ f : BaseFrame, f.data.length ≤ 15 ∧ fs = f.fields := by
  obtain ⟨zero, _⟩ := fieldBits_one
  constructor
  · intro fits
    obtain ⟨_, rfl, afterSof⟩ := (fitsLayout_const_iff (by decide)).mp fits
    obtain ⟨id, _, rfl, afterId⟩ := fitsLayout_free_iff.mp afterSof
    obtain ⟨rtr, _, rfl, afterRtr⟩ := fitsLayout_bit_iff.mp afterId
    obtain ⟨_, rfl, afterIde⟩ := (fitsLayout_const_iff (by decide)).mp afterRtr
    obtain ⟨r0, _, rfl, afterR0⟩ := fitsLayout_bit_iff.mp afterIde
    obtain ⟨data, crc, ackslot, hlen, rfl⟩ := (fitsLayout_tailLayout_iff (by simp)).mp afterR0
    exact ⟨⟨id, rtr, r0, data, crc, ackslot⟩, hlen, by rw [zero]; rfl⟩
  · rintro ⟨f, hlen, rfl⟩
    refine (fitsLayout_const_iff (by decide)).mpr ⟨_, by rw [zero]; rfl, ?_⟩
    refine fitsLayout_free_iff.mpr ⟨f.id, _, rfl, ?_⟩
    refine fitsLayout_bit_iff.mpr ⟨f.rtr, _, rfl, ?_⟩
    refine (fitsLayout_const_iff (by decide)).mpr ⟨_, by rw [zero]; rfl, ?_⟩
    refine fitsLayout_bit_iff.mpr ⟨f.r0, _, rfl, ?_⟩
    exact (fitsLayout_tailLayout_iff (by simp)).mpr ⟨f.data, f.crc, f.ackslot, hlen, rfl⟩

theorem fitsLayout_extLayout_iff {fs : Fields} :
    fitsLayout extLayout [] fs ↔ ∃ f : ExtFrame, f.data.length ≤ 15 ∧ fs = f.fields := by
  obtain ⟨zero, one⟩ := fieldBits_one
  constructor
  · intro fits
    obtain ⟨_, rfl, afterSof⟩ := (fitsLayout_const_iff (by decide)).mp fits
    obtain ⟨ida, _, rfl, afterIda⟩ := fitsLayout_free_iff.mp afterSof
    obtain ⟨_, rfl, afterSrr⟩ := (fitsLayout_const_iff (by decide)).mp afterIda
    obtain ⟨_, rfl, afterIde⟩ := (fitsLayout_const_iff (by decide)).mp afterSrr
    obtain ⟨idb, _, rfl, afterIdb⟩ := fitsLayout_free_iff.mp afterIde
    obtain ⟨rtr, _, rfl, afterRtr⟩ := fitsLayout_bit_iff.mp afterIdb
    obtain ⟨r1, _, rfl, afterR1⟩ := fitsLayout_bit_iff.mp afterRtr
    obtain ⟨r0, _, rfl, afterR0⟩ := fitsLayout_bit_iff.mp afterR1
    obtain ⟨data, crc, ackslot, hlen, rfl⟩ := (fitsLayout_tailLayout_iff (by simp)).mp afterR0
    exact ⟨⟨ida, idb, rtr, r1, r0, data, crc, ackslot⟩, hlen, by rw [zero, one]; rfl⟩
  · rintro ⟨f, hlen, rfl⟩
    refine (fitsLayout_const_iff (by decide)).mpr ⟨_, by rw [zero]; rfl, ?_⟩
    refine fitsLayout_free_iff.mpr ⟨f.ida, _, rfl, ?_⟩
    refine (fitsLayout_const_iff (by decide)).mpr ⟨_, by rw [one]; rfl, ?_⟩
    refine (fitsLayout_const_iff (by decide)).mpr ⟨_, by rw [one]; rfl, ?_⟩
    refine fitsLayout_free_iff.mpr ⟨f.idb, _, rfl, ?_⟩
    refine fitsLayout_bit_iff.mpr ⟨f.rtr, _, rfl, ?_⟩
    refine fitsLayout_bit_iff.mpr ⟨f.r1, _, rfl, ?_⟩
    refine fitsLayout_bit_iff.mpr ⟨f.r0, _, rfl, ?_⟩
    exact (fitsLayout_tailLayout_iff (by simp)).mpr ⟨f.data, f.crc, f.ackslot, hlen, rfl⟩

/-! ### The F_* registers of a reference frame -/

/-- A base frame has neither SRR nor R1, which then read 0 (10_state.md R41). -/
theorem BaseFrame.frameBits_fields (f : BaseFrame) (dlen : Nat) : frameBits f.fields = (f.regs dlen).bits := by
  have values : ∀ a b c : Bool,
      BitVec.ofNat 9 (0 ||| a.toNat <<< 1 ||| 0 <<< 2 ||| 0 <<< 3 ||| 0 <<< 4 ||| b.toNat <<< 5 ||| 1 <<< 6
          ||| c.toNat <<< 7 ||| 1 <<< 8) =
        (if a then 0x002 else 0) ||| (if b then 0x020 else 0) ||| (if c then 0x080 else 0) ||| 0x140 := by decide
  rw [← show _ = (f.regs dlen).bits from values f.rtr f.r0 f.ackslot]
  simp [frameBits, Fields.value, Fields.bitsOf, BaseFrame.fields, tailFields]

theorem ExtFrame.frameBits_fields (f : ExtFrame) (dlen : Nat) : frameBits f.fields = (f.regs dlen).bits := by
  have values : ∀ a b c d : Bool,
      BitVec.ofNat 9 (0 ||| a.toNat <<< 1 ||| 1 <<< 2 ||| 1 <<< 3 ||| b.toNat <<< 4 ||| c.toNat <<< 5 ||| 1 <<< 6
          ||| d.toNat <<< 7 ||| 1 <<< 8) =
        (if a then 0x002 else 0) ||| (if b then 0x010 else 0) ||| (if c then 0x020 else 0)
          ||| (if d then 0x080 else 0) ||| 0x14C := by decide
  rw [← show _ = (f.regs dlen).bits from values f.rtr f.r1 f.r0 f.ackslot]
  simp [frameBits, Fields.value, Fields.bitsOf, ExtFrame.fields, tailFields]

/-- `(IDA << 18) | IDB` is the two halves side by side (41_frame_decoder.md R151). -/
theorem ofNat_shiftLeft_or_eq_append (a : BitVec 11) (b : BitVec 18) :
    BitVec.ofNat 29 (a.toNat <<< 18 ||| b.toNat) = a ++ b := by
  rw [← BitVec.toNat_append, BitVec.ofNat_toNat, BitVec.setWidth_eq]

theorem ExtFrame.frameId_fields (f : ExtFrame) : frameId true f.fields = f.ida ++ f.idb := by
  have ida : f.fields.value .ida = f.ida.toNat := val_sentBits f.ida
  have idb : f.fields.value .idb = f.idb.toNat := val_sentBits f.idb
  rw [frameId, if_pos rfl, ida, idb, ofNat_shiftLeft_or_eq_append]

theorem BaseFrame.frameRegs_fields {f : BaseFrame} (hlen : f.data.length ≤ 15) (D : Bits) :
    frameRegs false D f.fields f.bits.length = f.regs D.length := by
  have dlc : val (fieldBits 4 f.data.length) = f.data.length := val_fieldBits_of_lt _ _ (by omega)
  rw [frameRegs, frameId, f.frameBits_fields D.length, f.bits_length]
  simp [BaseFrame.regs, Fields.value, Fields.bitsOf, BaseFrame.fields, tailFields, dlc, payloadWord_payloadBits,
    val_fieldBits]

theorem ExtFrame.frameRegs_fields {f : ExtFrame} (hlen : f.data.length ≤ 15) (D : Bits) :
    frameRegs true D f.fields f.bits.length = f.regs D.length := by
  have dlc : val (fieldBits 4 f.data.length) = f.data.length := val_fieldBits_of_lt _ _ (by omega)
  rw [frameRegs, f.frameId_fields, f.frameBits_fields D.length, f.bits_length]
  simp [ExtFrame.regs, Fields.value, Fields.bitsOf, ExtFrame.fields, tailFields, dlc, payloadWord_payloadBits,
    val_fieldBits]

/-- The base decoder accepts a stream exactly when it begins with a base frame, whose fields it then shows. -/
theorem decodeFrame_base_eq_ok_iff {D : Bits} {r : FrameRegs} :
    decodeFrame false D = .ok r ↔
      ∃ (f : BaseFrame) (extra : Bits), f.data.length ≤ 15 ∧ D = f.bits ++ extra ∧ r = f.regs D.length := by
  rw [decodeFrame_eq_ok_iff]
  constructor
  · rintro ⟨fs, extra, fits, hD, rfl⟩
    obtain ⟨f, hlen, rfl⟩ := fitsLayout_baseLayout_iff.mp fits
    rw [f.fields_stream] at hD ⊢
    exact ⟨f, extra, hlen, hD, BaseFrame.frameRegs_fields hlen D⟩
  · rintro ⟨f, extra, hlen, hD, rfl⟩
    refine ⟨f.fields, extra, fitsLayout_baseLayout_iff.mpr ⟨f, hlen, rfl⟩, ?_, ?_⟩ <;> rw [f.fields_stream]
    · exact hD
    · exact (BaseFrame.frameRegs_fields hlen D).symm

/-- The same of the extended decoder. -/
theorem decodeFrame_ext_eq_ok_iff {D : Bits} {r : FrameRegs} :
    decodeFrame true D = .ok r ↔
      ∃ (f : ExtFrame) (extra : Bits), f.data.length ≤ 15 ∧ D = f.bits ++ extra ∧ r = f.regs D.length := by
  rw [decodeFrame_eq_ok_iff]
  constructor
  · rintro ⟨fs, extra, fits, hD, rfl⟩
    obtain ⟨f, hlen, rfl⟩ := fitsLayout_extLayout_iff.mp fits
    rw [f.fields_stream] at hD ⊢
    exact ⟨f, extra, hlen, hD, ExtFrame.frameRegs_fields hlen D⟩
  · rintro ⟨f, extra, hlen, hD, rfl⟩
    refine ⟨f.fields, extra, fitsLayout_extLayout_iff.mpr ⟨f, hlen, rfl⟩, ?_, ?_⟩ <;> rw [f.fields_stream]
    · exact hD
    · exact (ExtFrame.frameRegs_fields hlen D).symm

/-- Settles O28: the fields a walk took fit its layout, so they are the fields of a frame. -/
theorem acceptedStreamsAreFrames : Obligations.AcceptedStreamsAreFrames :=
  ⟨fun _ _ => decodeFrame_base_eq_ok_iff.mp, fun _ _ => decodeFrame_ext_eq_ok_iff.mp⟩

/-! ### The DECODE commands on a frame -/

/-- A DECODE command whose walk succeeds writes the F_* registers and completes. -/
theorem conclude_runDecode_ok {s : State} {ext stuffed : Bool} {r : FrameRegs} (hl : s.len.toNat ≤ s.cfg.maxBits)
    (hr : decodeFrame ext (decodedStream stuffed s.inputBits) = .ok r) :
    s.conclude (s.runDecode ext stuffed) = .next { s with
      phase := .idle, done := true, err := false, errcode := 0, errpos := 0, frame := r } := by
  rw [State.runDecode_eq, if_pos hl, hr]
  rfl

/-- Settles O24: the input is the stream, which begins with a base frame. -/
theorem decodeBaseUReadsABaseFrame : Obligations.DecodeBaseUReadsABaseFrame := by
  intro s f extra hlen hl hin
  rw [← s.inputBits_length]
  exact conclude_runDecode_ok hl (decodeFrame_base_eq_ok_iff.mpr ⟨f, extra, hlen, hin, rfl⟩)

/-- Settles O25: the input is the stream, which begins with an extended frame. -/
theorem decodeExtUReadsAnExtendedFrame : Obligations.DecodeExtUReadsAnExtendedFrame := by
  intro s f extra hlen hl hin
  rw [← s.inputBits_length]
  exact conclude_runDecode_ok hl (decodeFrame_ext_eq_ok_iff.mpr ⟨f, extra, hlen, hin, rfl⟩)

end Sys2Proof.Machine
end

section
/-! PROOFS. The destuffer (40_destuffer.md R110 to R114): what its window holds, which input bits it keeps, and its
run-length form. -/

namespace Sys2Proof.Machine

/-! ### The window -/

theorem foldl_step_window (n L : Nat) (x : Bits) (d : Destuffer) :
    (x.foldl (Destuffer.step n L) d).window = x.foldl (windowPush n) d.window := by
  induction x generalizing d with
  | nil => rfl
  | cons b x ih => exact ih _

theorem foldl_step_index (n L : Nat) (x : Bits) (d : Destuffer) :
    (x.foldl (Destuffer.step n L) d).index = d.index + x.length := by
  induction x generalizing d with
  | nil => rfl
  | cons b x ih =>
    rw [List.foldl_cons, ih, List.length_cons, Nat.add_comm x.length, ← Nat.add_assoc]
    rfl

/-- The oldest bit leaves a full window, so the last n bits stay the last n bits (40_destuffer.md R110). -/
theorem windowPush_rtake {n : Nat} (hn : 1 ≤ n) (x : Bits) (b : Bool) :
    windowPush n (x.rtake n) b = (x ++ [b]).rtake n := by
  obtain ⟨m, rfl⟩ := Nat.exists_eq_add_of_le' hn
  rw [List.rtake_concat_succ, windowPush]
  by_cases full : m + 1 ≤ x.length
  · have next : x.length - (m + 1) + 1 = x.length - m := by omega
    rw [if_pos (by simp [List.rtake]; omega), List.rtake, List.drop_drop, next, List.rtake]
  · have small : x.length - (m + 1) = 0 ∧ x.length - m = 0 := by omega
    rw [if_neg (by simp [List.rtake]; omega), List.rtake, List.rtake, small.1, small.2]

theorem foldl_windowPush_eq_rtake {n : Nat} (hn : 1 ≤ n) (x : Bits) : x.foldl (windowPush n) [] = x.rtake n := by
  induction x using List.reverseRecOn with
  | nil => simp
  | append_singleton x b ih => rw [List.foldl_append, ih]; exact windowPush_rtake hn x b

theorem destuffer_window {n : Nat} (hn : 1 ≤ n) (L : Nat) (x : Bits) :
    (x.foldl (Destuffer.step n L) Destuffer.init).window = x.rtake n :=
  (foldl_step_window n L x _).trans (foldl_windowPush_eq_rtake hn x)

/-- Settles O14: the window is the fold of the pushes, each of which keeps the last n bits. -/
theorem windowHoldsTheLastInputBits : Obligations.WindowHoldsTheLastInputBits := by
  intro x n L hn
  rw [destuffer_window hn]
  exact ⟨rfl, by simp [List.rtake]; omega⟩

/-- A window is full and uniform when it is n times one bit. -/
theorem windowFull_and_windowUniform_iff (n : Nat) (W : Bits) :
    (windowFull n W && windowUniform W) = true ↔ ∃ c, W = List.replicate n c := by
  simp only [windowFull, windowUniform, Bool.and_eq_true, Bool.or_eq_true, beq_iff_eq, List.all_eq_true,
    List.eq_replicate_iff, exists_and_left, Bool.exists_bool]

/-! ### The bits the destuffer keeps -/

/-- A slice that ends where a part of the sequence ends is the last bits of that part. -/
theorem slice_append_eq_rtake {n : Nat} {x : Bits} (y : Bits) (h : n ≤ x.length) :
    slice (x ++ y) (x.length - n) n = x.rtake n := by
  have width : (x.drop (x.length - n)).length = n := by simp; omega
  rw [slice, List.drop_append_of_le_length (by omega), List.rtake, List.take_append_of_le_length width.ge,
    List.take_of_length_le width.le]

/-- The window rule at an index, read off the input (40_destuffer.md R112). -/
theorem droppedAt_length_append (n : Nat) (x y : Bits) :
    droppedAt (x ++ y) n x.length =
      (!exempt x.length (x ++ y).length && windowFull n (x.rtake n) && windowUniform (x.rtake n)) := by
  have notExempt : decide (x.length + 13 < (x ++ y).length) = !exempt x.length (x ++ y).length := by
    rw [exempt, ← decide_not]
    exact decide_eq_decide.mpr (by omega)
  have full : decide (n ≤ x.length) = windowFull n (x.rtake n) := by
    rw [windowFull, Bool.eq_iff_iff]
    simp [List.rtake]
    omega
  by_cases h : n ≤ x.length
  · rw [droppedAt, notExempt, full, slice_append_eq_rtake y h]
    rfl
  · rw [droppedAt, notExempt, ← full, decide_eq_false h]
    simp

/-- From any point on, the destuffer keeps the bits of the indices that are not dropped. -/
theorem keptFrom_eq_filterMap (n : Nat) (hn : 1 ≤ n) (x y : Bits) :
    keptFrom n (x ++ y).length (x.rtake n) x.length y =
      (List.range' x.length y.length).filterMap
        (fun j => if droppedAt (x ++ y) n j then none else (x ++ y)[j]?) := by
  induction y generalizing x with
  | nil => rfl
  | cons b y ih =>
    have later := ih (x ++ [b])
    rw [List.append_assoc, List.length_append (as := x) (bs := [b]), List.length_singleton, ← windowPush_rtake hn] at later
    rw [keptFrom_cons, ← droppedAt_length_append, List.length_cons, List.range'_succ, List.filterMap_cons]
    cases hd : droppedAt (x ++ b :: y) n x.length with
    | true => simpa using later
    | false => simpa using later

theorem unstuff_eq_filterMap {n : Nat} (hn : 1 ≤ n) (x : Bits) :
    unstuff x n =
      (List.range x.length).filterMap (fun j => if droppedAt x n j then none else x[j]?) := by
  rw [unstuff_eq_keptFrom, List.range_eq_range']
  simpa using keptFrom_eq_filterMap n hn [] x

theorem unstuff_length_le (x : Bits) (n : Nat) : (unstuff x n).length ≤ x.length := (unstuff_sublist x n).length_le

/-- No index is dropped in the trailer or before the window is full (40_destuffer.md R111, R112). -/
theorem droppedAt_eq_false {x : Bits} {n j : Nat} (h : x.length ≤ j + 13 ∨ j < n) : droppedAt x n j = false := by
  have outside : ¬ (j + 13 < x.length ∧ n ≤ j) := by omega
  rw [droppedAt, ← Bool.decide_and, decide_eq_false outside, Bool.false_and]

/-- Settles O15: the destuffer as a filter of the indices. -/
theorem unstuffKeepsExactlyTheOtherBits : Obligations.UnstuffKeepsExactlyTheOtherBits :=
  fun x n hn => ⟨unstuff_eq_filterMap hn x, unstuff_length_le x n, fun _ => droppedAt_eq_false⟩

/-! ### The run-length form -/

/-- The run-length state after the input x: the run says how many of the last bits, n at most, are equal. -/
def RunMatches (n : Nat) (x : Bits) (d : RunDestuffer) : Prop :=
  d.index = x.length ∧ ∀ k ≤ n, ∀ c, x.rtake k = List.replicate k c ↔ k = 0 ∨ (k ≤ d.run ∧ c = d.last)

theorem runMatches_init (n : Nat) : RunMatches n [] RunDestuffer.init :=
  ⟨rfl, fun k _ c => by cases k <;> simp [RunDestuffer.init, List.replicate_succ]⟩

/-- The last k + 1 bits are equal when the new bit equals the k bits before it. -/
theorem rtake_concat_eq_replicate_iff (k : Nat) (x : Bits) (b c : Bool) :
    (x ++ [b]).rtake (k + 1) = List.replicate (k + 1) c ↔ x.rtake k = List.replicate k c ∧ b = c := by
  rw [List.rtake_concat_succ, List.replicate_succ']
  simp

theorem runMatches_step {n : Nat} (L : Nat) {x : Bits} {d : RunDestuffer} (h : RunMatches n x d) (b : Bool) :
    RunMatches n (x ++ [b]) (RunDestuffer.step n L d b) := by
  obtain ⟨index, runs⟩ := h
  refine ⟨by simp [RunDestuffer.step, index], fun k hk c => ?_⟩
  cases k with
  | zero => simp
  | succ k =>
    rw [rtake_concat_eq_replicate_iff, runs k (by omega) c]
    have last : (RunDestuffer.step n L d b).last = b := rfl
    by_cases grows : 0 < d.index ∧ b = d.last
    · have run : (RunDestuffer.step n L d b).run = min (d.run + 1) n := if_pos grows
      obtain ⟨_, rfl⟩ := grows
      rw [run, last]
      by_cases hc : c = d.last
      · simp [hc]; omega
      · simp [hc, Ne.symm hc]
    · have run : (RunDestuffer.step n L d b).run = 1 := if_neg grows
      have fresh : (k = 0 ∨ k ≤ d.run ∧ b = d.last) ↔ k = 0 := by
        refine ⟨fun equal => ?_, .inl⟩
        by_cases first : d.index = 0
        · obtain rfl := List.eq_nil_of_length_eq_zero (index.symm.trans first)
          simpa [eq_comm] using congrArg List.length ((runs k (by omega) b).mpr equal)
        · exact equal.resolve_right fun ⟨_, hb⟩ => grows ⟨Nat.pos_of_ne_zero first, hb⟩
      rw [run, last]
      by_cases hc : c = b
      · rw [hc, fresh]
        simp
      · simp [hc, Ne.symm hc]

theorem runMatches_foldl (n L : Nat) (x : Bits) : RunMatches n x (x.foldl (RunDestuffer.step n L) RunDestuffer.init) := by
  induction x using List.reverseRecOn with
  | nil => exact runMatches_init n
  | append_singleton x b ih => rw [List.foldl_append]; exact runMatches_step L ih b

/-- The window is full and uniform exactly when the run is at least n (40_destuffer.md R114). -/
theorem window_eq_run {n : Nat} (hn : 1 ≤ n) (L : Nat) (x : Bits) :
    (windowFull n (x.foldl (Destuffer.step n L) Destuffer.init).window &&
      windowUniform (x.foldl (Destuffer.step n L) Destuffer.init).window) =
    decide (n ≤ (x.foldl (RunDestuffer.step n L) RunDestuffer.init).run) := by
  obtain ⟨_, runs⟩ := runMatches_foldl n L x
  have some_bit : (∃ c, x.rtake n = List.replicate n c) ↔
      n ≤ (x.foldl (RunDestuffer.step n L) RunDestuffer.init).run := by
    have notZero : n ≠ 0 := by omega
    simp [runs n le_rfl, notZero]
  rw [destuffer_window hn, Bool.eq_iff_iff, windowFull_and_windowUniform_iff, some_bit, decide_eq_true_iff]

/-- Both forms keep the same bits, since they make the same test before each bit. -/
theorem foldl_runDestuffer_out {n : Nat} (hn : 1 ≤ n) (L : Nat) (x : Bits) :
    (x.foldl (RunDestuffer.step n L) RunDestuffer.init).out = (x.foldl (Destuffer.step n L) Destuffer.init).out := by
  induction x using List.reverseRecOn with
  | nil => rfl
  | append_singleton x b ih =>
    have index : (x.foldl (Destuffer.step n L) Destuffer.init).index =
        (x.foldl (RunDestuffer.step n L) RunDestuffer.init).index := by
      rw [foldl_step_index, (runMatches_foldl n L x).1]
      exact Nat.zero_add _
    rw [List.foldl_append, List.foldl_append]
    simp only [List.foldl_cons, List.foldl_nil, Destuffer.step_out, Destuffer.drops, Bool.and_assoc, window_eq_run hn,
      index, ← ih]
    rfl

/-- Settles O16: the run says when the window is full and uniform, which is all the window is asked. -/
theorem runLengthFormAgrees : Obligations.RunLengthFormAgrees :=
  ⟨fun x _ hn => foldl_runDestuffer_out hn x.length x, fun x _ L hn => window_eq_run hn L x⟩

end Sys2Proof.Machine
end

section
/-! PROOFS. The reference stuffer (40_destuffer.md R115 to R118) as a recursion over the input: when it inserts a bit, how
the destuffer undoes it, and how long its runs and its output are. -/

namespace Sys2Proof.Machine

/-! ### The stuffing bit -/

/-- The window does not hold n times one bit, so no stuffing bit is due after it. -/
def Varied (n : Nat) (W : Bits) : Prop := ∀ c, W ≠ List.replicate n c

/-- A window with no bit c is a run of the opposite bit. -/
theorem not_contains_iff (W : Bits) (c : Bool) : (!W.contains c) = true ↔ W = List.replicate W.length (!c) := by
  rw [Bool.not_eq_true', ← Bool.not_eq_true, List.contains_iff_mem, List.eq_replicate_iff]
  have opposite : ∀ b : Bool, b ≠ c ↔ b = !c := by cases c <;> decide
  simp only [true_and, ← opposite]
  exact ⟨fun absent b hb same => absent (same ▸ hb), fun all hc => all c hc rfl⟩

/-- A stuffing bit is due after n times its opposite (40_destuffer.md R116). -/
theorem stuffingBit_eq_some_iff {n : Nat} (hn : 1 ≤ n) (W : Bits) (exempted c : Bool) :
    stuffingBit n W exempted = some c ↔ exempted = false ∧ W = List.replicate n (!c) := by
  by_cases tested : (windowFull n W && !exempted) = true
  · obtain ⟨full, notExempted⟩ : W.length = n ∧ exempted = false := by simpa [windowFull] using tested
    subst full
    have one_run : ∀ a b, W = List.replicate W.length (!a) → W = List.replicate W.length (!b) → a = b := by
      intro a b ha hb
      exact Bool.not_inj ((List.replicate_right_inj (by omega)).mp (ha.symm.trans hb))
    have due : ∀ a, W = List.replicate W.length (!a) →
        (some a = some c ↔ exempted = false ∧ W = List.replicate W.length (!c)) := by
      intro a ha
      rw [Option.some.injEq]
      exact ⟨fun same => same ▸ ⟨notExempted, ha⟩, fun ⟨_, hc⟩ => one_run a c ha hc⟩
    rw [stuffingBit, if_pos tested]
    simp only [not_contains_iff]
    split_ifs with noOne noZero
    · exact due true noOne
    · exact due false noZero
    · exact ⟨nofun, fun ⟨_, hc⟩ => by cases c; exacts [absurd hc noZero, absurd hc noOne]⟩
  · rw [stuffingBit, if_neg tested]
    have untested : ¬ (exempted = false ∧ W = List.replicate n (!c)) := by
      rintro ⟨rfl, rfl⟩
      exact tested (by simp [windowFull])
    simp [untested]

theorem stuffingBit_eq_none_iff {n : Nat} (hn : 1 ≤ n) (W : Bits) (exempted : Bool) :
    stuffingBit n W exempted = none ↔ (exempted = false → Varied n W) := by
  rw [Option.eq_none_iff_forall_ne_some]
  simp only [ne_eq, stuffingBit_eq_some_iff hn, Varied, not_and, Bool.forall_bool, Bool.not_false, Bool.not_true]
  tauto

/-- Settles O17: with no bit c the window is a run of the opposite bit. -/
theorem stuffingBitOnlyAfterAUniformWindow : Obligations.StuffingBitOnlyAfterAUniformWindow := by
  refine fun n W c hn => ⟨?_, (stuffingBit_eq_none_iff hn W true).mpr (by simp)⟩
  rw [stuffingBit_eq_some_iff hn, List.eq_replicate_iff]
  simp [windowFull]

/-! ### Stuffing as a recursion over the input -/

/-- What the stuffer emits for the rest x of its input, from a given window on; the last 13 bits are exempt. -/
def stuffFrom (n : Nat) (W : Bits) (x : Bits) : Bits :=
  match x with
  | [] => []
  | b :: rest =>
    match stuffingBit n (windowPush n W b) (decide (rest.length < 13)) with
    | none => b :: stuffFrom n (windowPush n W b) rest
    | some c => b :: c :: stuffFrom n (windowPush n (windowPush n W b) c) rest

theorem foldl_stuffer_out (n L : Nat) (x : Bits) (d : Stuffer) (hL : L = d.index + x.length) :
    (x.foldl (Stuffer.step n L) d).out = d.out ++ stuffFrom n d.window x := by
  induction x generalizing d with
  | nil => simp [stuffFrom]
  | cons b x ih =>
    have trailer : exempt d.index L = decide (x.length < 13) := by
      rw [exempt, hL, List.length_cons]
      exact decide_eq_decide.mpr (by omega)
    have next : L = d.index + 1 + x.length := by rw [hL, List.length_cons]; omega
    have later := fun W y => ih ⟨W, d.index + 1, y⟩ next
    rw [List.foldl_cons, Stuffer.step, trailer, stuffFrom]
    cases stuffingBit n (windowPush n d.window b) (decide (x.length < 13)) with
    | none => simpa using later (windowPush n d.window b) (d.out ++ [b])
    | some c => simpa using later (windowPush n (windowPush n d.window b) c) (d.out ++ [b, c])

theorem stuff_eq_stuffFrom (x : Bits) (n : Nat) : stuff x n = stuffFrom n [] x := by
  rw [stuff, foldl_stuffer_out n x.length x Stuffer.init (Nat.zero_add _).symm]
  rfl

/-- Everything one input bit makes the stuffer do: emit it, and after n equal bits before the trailer the opposite bit
(40_destuffer.md R115). -/
theorem stuffFrom_cons_cases {n : Nat} (hn : 1 ≤ n) (W : Bits) (b : Bool) (x : Bits) :
    (stuffFrom n W (b :: x) = b :: stuffFrom n (windowPush n W b) x ∧ (13 ≤ x.length → Varied n (windowPush n W b))) ∨
    (∃ c, 13 ≤ x.length ∧ windowPush n W b = List.replicate n (!c) ∧
      stuffFrom n W (b :: x) = b :: c :: stuffFrom n (windowPush n (windowPush n W b) c) x) := by
  rw [stuffFrom]
  cases hs : stuffingBit n (windowPush n W b) (decide (x.length < 13)) with
  | none =>
    have varied := (stuffingBit_eq_none_iff hn _ _).mp hs
    exact .inl ⟨rfl, fun long => varied (decide_eq_false long.not_gt)⟩
  | some c =>
    obtain ⟨long, run⟩ := (stuffingBit_eq_some_iff hn _ _ _).mp hs
    exact .inr ⟨c, Nat.le_of_not_lt (of_decide_eq_false long), run, rfl⟩

theorem length_le_stuffFrom {n : Nat} (hn : 1 ≤ n) (W x : Bits) : x.length ≤ (stuffFrom n W x).length := by
  induction x generalizing W with
  | nil => exact Nat.zero_le _
  | cons b x ih =>
    obtain ⟨h, _⟩ | ⟨c, _, _, h⟩ := stuffFrom_cons_cases hn W b x <;> rw [h]
    · exact Nat.succ_le_succ (ih _)
    · exact Nat.succ_le_succ ((ih _).trans (Nat.le_succ _))

/-- The trailer passes unchanged. -/
theorem stuffFrom_of_short {n : Nat} (hn : 1 ≤ n) (W : Bits) {x : Bits} (short : x.length ≤ 13) :
    stuffFrom n W x = x := by
  induction x generalizing W with
  | nil => rfl
  | cons b x ih =>
    rw [List.length_cons] at short
    obtain ⟨h, _⟩ | ⟨c, long, _⟩ := stuffFrom_cons_cases hn W b x
    · rw [h, ih _ (by omega)]
    · omega

theorem keptFrom_of_exempt (n : Nat) {L j : Nat} (W x : Bits) (hL : L ≤ j + 13) : keptFrom n L W j x = x := by
  induction x generalizing W j with
  | nil => rfl
  | cons b x ih =>
    have inTrailer : exempt j L = true := decide_eq_true hL
    rw [keptFrom_cons, inTrailer, ih _ (by omega)]
    rfl

/-- Before the trailer the destuffer keeps a bit after a varied window and drops one after n equal bits. -/
theorem keptFrom_of_varied {n L j : Nat} {W : Bits} (hW : Varied n W) (b : Bool) (x : Bits) :
    keptFrom n L W j (b :: x) = b :: keptFrom n L (windowPush n W b) (j + 1) x := by
  have kept : (windowFull n W && windowUniform W) = false := by
    rw [← Bool.not_eq_true, windowFull_and_windowUniform_iff]
    exact fun ⟨c, hc⟩ => hW c hc
  rw [keptFrom_cons, Bool.and_assoc, kept]
  simp

theorem keptFrom_of_run {n L j : Nat} {W : Bits} {c : Bool} (hW : W = List.replicate n c) (hL : j + 13 < L) (b : Bool)
    (x : Bits) : keptFrom n L W j (b :: x) = keptFrom n L (windowPush n W b) (j + 1) x := by
  have dropped : (windowFull n W && windowUniform W) = true := (windowFull_and_windowUniform_iff n W).mpr ⟨c, hW⟩
  have notExempt : exempt j L = false := decide_eq_false hL.not_ge
  rw [keptFrom_cons, Bool.and_assoc, dropped, notExempt]
  simp

/-- After the stuffing bit the window holds both bits, for n of at least 2. -/
theorem windowPush_replicate_varied {n : Nat} (hn : 2 ≤ n) (c : Bool) :
    Varied n (windowPush n (List.replicate n (!c)) c) := by
  intro a ha
  rw [windowPush, if_pos List.length_replicate, List.drop_replicate] at ha
  have all := (List.eq_replicate_iff.mp ha).2
  have first : (!c) = a := all _ (by simp; omega)
  have last : c = a := all _ (by simp)
  simp [← last] at first

/-- The destuffer undoes the stuffer from any window on that does not ask for a bit at once. -/
theorem keptFrom_stuffFrom {n : Nat} (hn : 2 ≤ n) (W : Bits) (j : Nat) (x : Bits)
    (hW : 13 < x.length → Varied n W) :
    keptFrom n (j + (stuffFrom n W x).length) W j (stuffFrom n W x) = x := by
  have hn1 : 1 ≤ n := by omega
  induction x generalizing W j with
  | nil => rfl
  | cons b x ih =>
    by_cases short : (b :: x).length ≤ 13
    · rw [stuffFrom_of_short hn1 W short]
      exact keptFrom_of_exempt n W _ (by omega)
    have long : 13 ≤ x.length := by rw [List.length_cons] at short; omega
    have varied : Varied n W := hW (by omega)
    obtain ⟨h, later⟩ | ⟨c, _, run, h⟩ := stuffFrom_cons_cases hn1 W b x <;> rw [h, keptFrom_of_varied varied]
    · have undone := ih (windowPush n W b) (j + 1) (fun _ => later long)
      rw [Nat.add_right_comm] at undone
      rw [List.length_cons, ← Nat.add_assoc, undone]
    · have undone := ih (windowPush n (windowPush n W b) c) (j + 2) (fun _ => by
        rw [run]
        exact windowPush_replicate_varied hn c)
      have room := length_le_stuffFrom hn1 (windowPush n (windowPush n W b) c) x
      have total : ∀ l, j + (l + 1 + 1) = j + 2 + l := by omega
      rw [List.length_cons, List.length_cons, total, keptFrom_of_run run (by omega), undone]

theorem emptyWindow_varied {n : Nat} (hn : 1 ≤ n) : Varied n [] := by
  intro c hc
  have length_eq := congrArg List.length hc
  simp at length_eq
  omega

theorem unstuff_stuff {n : Nat} (hn : 2 ≤ n) (x : Bits) : unstuff (stuff x n) n = x := by
  have emptyVaried : Varied n [] := emptyWindow_varied (by omega)
  have undone := keptFrom_stuffFrom hn [] 0 x (fun _ => emptyVaried)
  rwa [Nat.zero_add, ← stuff_eq_stuffFrom, ← unstuff_eq_keptFrom] at undone

/-- The last 13 bits of the output are those of the input. -/
theorem stuffFrom_rtake {n : Nat} (hn : 1 ≤ n) (W : Bits) {x : Bits} (long : 13 ≤ x.length) :
    ∃ y, stuffFrom n W x = y ++ x.rtake 13 := by
  induction x generalizing W with
  | nil => simp at long
  | cons b x ih =>
    by_cases last : (b :: x).length = 13
    · exact ⟨[], by rw [stuffFrom_of_short hn W last.le, List.rtake, last]; rfl⟩
    have tailLong : 13 ≤ x.length := by rw [List.length_cons] at long last; omega
    have sameEnd : (b :: x).rtake 13 = x.rtake 13 := by
      rw [List.rtake, List.length_cons, Nat.sub_add_comm tailLong, List.drop_succ_cons, List.rtake]
    rw [sameEnd]
    obtain ⟨h, _⟩ | ⟨c, _, _, h⟩ := stuffFrom_cons_cases hn W b x <;> rw [h]
    · obtain ⟨y, hy⟩ := ih (windowPush n W b) tailLong
      exact ⟨b :: y, by rw [hy]; rfl⟩
    · obtain ⟨y, hy⟩ := ih (windowPush n (windowPush n W b) c) tailLong
      exact ⟨b :: c :: y, by rw [hy]; rfl⟩

theorem stuff_rtake {n : Nat} (hn : 1 ≤ n) {x : Bits} (long : 13 ≤ x.length) : (stuff x n).rtake 13 = x.rtake 13 := by
  obtain ⟨y, hy⟩ := stuffFrom_rtake hn [] long
  have width : (x.rtake 13).length = 13 := by simp [List.rtake]; omega
  rw [stuff_eq_stuffFrom, hy, List.rtake, List.length_append, width, Nat.add_sub_cancel, List.drop_left]

/-- Where no window of n bits before the trailer is uniform, no stuffing bit is due. -/
theorem stuffFrom_of_no_run {n : Nat} (hn : 1 ≤ n) (x y : Bits)
    (noRun : ∀ i, i + n + 13 ≤ (x ++ y).length → windowUniform (slice (x ++ y) i n) = false) :
    stuffFrom n (x.rtake n) y = y := by
  induction y generalizing x with
  | nil => rfl
  | cons b y ih =>
    have split : x ++ b :: y = x ++ [b] ++ y := by simp
    rw [split] at noRun
    obtain ⟨h, _⟩ | ⟨c, long, run, _⟩ := stuffFrom_cons_cases hn (x.rtake n) b y
    · rw [h, windowPush_rtake hn, ih (x ++ [b]) noRun]
    · rw [windowPush_rtake hn] at run
      have full : n ≤ (x ++ [b]).length := by
        have := congrArg List.length run
        simp only [List.rtake, List.length_drop, List.length_replicate] at this
        omega
      have uniform := noRun ((x ++ [b]).length - n) (by rw [List.length_append (as := x ++ [b])]; omega)
      rw [slice_append_eq_rtake y full, run] at uniform
      exact absurd uniform (by cases c <;> simp [windowUniform])

/-- Settles O18: each input bit passes a varied window, and each stuffing bit meets n equal bits. -/
theorem unstuffUndoesStuff : Obligations.UnstuffUndoesStuff := by
  refine ⟨fun n x hn => unstuff_stuff hn x, fun n x hn long => stuff_rtake (by omega) long, fun n x hn noRun => ?_,
    by decide +kernel, by decide +kernel⟩
  rw [stuff_eq_stuffFrom]
  simpa using stuffFrom_of_no_run hn [] x noRun

/-! ### Runs of a stuffed sequence -/

/-- Before the trailer no output bit continues n equal bits. -/
theorem stuffFrom_bit_after_run {n : Nat} (hn : 2 ≤ n) {W x y z : Bits} {b : Bool} (hW : 13 < x.length → Varied n W)
    (h : stuffFrom n W x = y ++ b :: z) (long : 13 ≤ z.length) : y.foldl (windowPush n) W ≠ List.replicate n b := by
  have hn1 : 1 ≤ n := by omega
  induction x generalizing W y with
  | nil => simp [stuffFrom] at h
  | cons a x ih =>
    have longInput : 13 ≤ x.length := by
      by_contra short
      rw [stuffFrom_of_short hn1 W (by simp; omega)] at h
      have := congrArg List.length h
      simp at this
      omega
    have varied : Varied n W := hW (by simp; omega)
    cases y with
    | nil => exact varied b
    | cons a' y =>
      obtain ⟨hx, later⟩ | ⟨c, _, run, hx⟩ := stuffFrom_cons_cases hn1 W a x
      · rw [hx] at h
        obtain ⟨rfl, afterBit⟩ := List.cons.inj h
        exact ih (W := windowPush n W a) (fun _ => later longInput) afterBit
      · rw [hx] at h
        obtain ⟨rfl, afterBit⟩ := List.cons.inj h
        cases y with
        | nil =>
          obtain ⟨rfl, _⟩ := List.cons.inj afterBit
          intro same
          have opposite := (List.replicate_right_inj (by omega)).mp (run.symm.trans same)
          simp at opposite
        | cons c' y =>
          obtain ⟨rfl, afterStuffing⟩ := List.cons.inj afterBit
          refine ih (W := windowPush n (windowPush n W a) c) (fun _ => ?_) afterStuffing
          rw [run]
          exact windowPush_replicate_varied hn c

/-- A run of n + 1 bits before the trailer would continue n equal bits. -/
theorem stuff_no_long_run {n : Nat} (hn : 2 ≤ n) (x : Bits) {i : Nat} (c : Bool)
    (hi : i + (n + 1) + 13 ≤ (stuff x n).length) : ¬ ∀ k, k ≤ n → (stuff x n)[i + k]? = some c := by
  intro run
  have emptyVaried : Varied n [] := emptyWindow_varied (by omega)
  have inside : i + n < (stuff x n).length := by omega
  have last : (stuff x n)[i + n] = c := by simpa [inside] using run n le_rfl
  have split : stuffFrom n [] x = (stuff x n).take (i + n) ++ c :: (stuff x n).drop (i + n + 1) := by
    rw [← stuff_eq_stuffFrom, ← last, List.getElem_cons_drop, List.take_append_drop]
  refine stuffFrom_bit_after_run hn (fun _ => emptyVaried) split (by simp; omega) ?_
  rw [foldl_windowPush_eq_rtake (by omega)]
  apply List.ext_getElem
  · simp [List.rtake]; omega
  · intro k hk hk'
    have before : k < n := by simpa using hk'
    have start : min (i + n) (stuff x n).length - n = i := by omega
    have bit := run k before.le
    rw [List.getElem?_eq_getElem (by omega), Option.some.injEq] at bit
    simp [List.rtake, start, bit]

/-- Settles O19: the last bit of a longer run would be one the stuffer never emits. -/
theorem stuffedRunsAreBounded : Obligations.StuffedRunsAreBounded :=
  ⟨fun _ x _ c hn hi => stuff_no_long_run hn x c hi, by decide +kernel⟩

/-! ### The length of a stuffed sequence -/

/-- The sequence does not end in r equal bits. -/
def EndRunBelow (r : Nat) (W : Bits) : Prop := ∀ c, ¬ List.replicate r c <:+ W

theorem windowPush_eq_suffix_append (n : Nat) (W : Bits) (b : Bool) : ∃ V, V <:+ W ∧ windowPush n W b = V ++ [b] := by
  rw [windowPush]
  split_ifs
  · exact ⟨W.drop 1, List.drop_suffix 1 W, rfl⟩
  · exact ⟨W, List.suffix_rfl, rfl⟩

/-- A run at the end of W ++ [b] is one of b, one longer than at the end of W. -/
theorem replicate_suffix_concat_iff (r : Nat) (W : Bits) (b c : Bool) :
    List.replicate (r + 1) c <:+ W ++ [b] ↔ c = b ∧ List.replicate r c <:+ W := by
  rw [List.replicate_succ', List.suffix_concat_iff]
  constructor
  · rintro (empty | ⟨t, ht, suffix⟩)
    · simp at empty
    · obtain ⟨rfl, last⟩ := List.append_inj' ht rfl
      exact ⟨by simpa using last, suffix⟩
  · rintro ⟨rfl, suffix⟩
    exact .inr ⟨_, rfl, suffix⟩

/-- Each bit makes the run at the end of the window at most one longer. -/
theorem endRunBelow_windowPush {r : Nat} (n : Nat) {W : Bits} (hW : EndRunBelow r W) (b : Bool) :
    EndRunBelow (r + 1) (windowPush n W b) := by
  obtain ⟨V, suffix, h⟩ := windowPush_eq_suffix_append n W b
  intro c hc
  rw [h, replicate_suffix_concat_iff] at hc
  exact hW c (hc.2.trans suffix)

/-- Only a run of n - 1 bits can become one of n. -/
theorem le_of_windowPush_eq_replicate {r n : Nat} {W : Bits} (hW : EndRunBelow r W) {b c : Bool}
    (h : windowPush n W b = List.replicate n c) : n ≤ r := by
  by_contra long
  have grown := endRunBelow_windowPush n hW b c
  rw [h] at grown
  refine grown ⟨List.replicate (n - (r + 1)) c, ?_⟩
  rw [← List.replicate_add]
  congr
  omega

/-- After a stuffing bit the window ends in a run of one. -/
theorem endRunBelow_two_of_stuffed (n : Nat) (c : Bool) : EndRunBelow 2 (windowPush n (List.replicate n (!c)) c) := by
  obtain ⟨V, suffix, h⟩ := windowPush_eq_suffix_append n (List.replicate n (!c)) c
  intro a ha
  rw [h, replicate_suffix_concat_iff] at ha
  obtain ⟨rfl, one⟩ := ha
  have inRun := (one.trans suffix).subset (List.mem_singleton_self a)
  simp [List.mem_replicate] at inRun

/-- How many bits stuffing adds: each of them after the first needs n - 1 input bits before the trailer
(00_scope.md R7). -/
theorem stuffFrom_length {n r : Nat} (hn : 2 ≤ n) {W x : Bits} (hW : EndRunBelow r W) :
    ∃ k, (stuffFrom n W x).length = x.length + k ∧ (k = 0 ∨ k * (n - 1) + 15 ≤ r + x.length) := by
  have hn1 : 1 ≤ n := by omega
  induction x generalizing W r with
  | nil => exact ⟨0, rfl, .inl rfl⟩
  | cons b x ih =>
    obtain ⟨h, _⟩ | ⟨c, long, run, h⟩ := stuffFrom_cons_cases hn1 W b x
    · obtain ⟨k, hk, bound⟩ := ih (endRunBelow_windowPush n hW b)
      refine ⟨k, by rw [h, List.length_cons, List.length_cons, hk]; omega, ?_⟩
      rw [List.length_cons]
      exact bound.imp_right (by omega)
    · have hr := le_of_windowPush_eq_replicate hW run
      rw [run] at h
      obtain ⟨k, hk, bound⟩ := ih (endRunBelow_two_of_stuffed n c)
      refine ⟨k + 1, by rw [h, List.length_cons, List.length_cons, List.length_cons, hk]; omega, .inr ?_⟩
      rw [List.length_cons, Nat.succ_mul]
      obtain rfl | bound := bound <;> omega

/-- The bound of R7 for one bit sequence: four input bits a stuffing bit, the trailer exempt. -/
theorem stuff_five_length_le {x : Bits} (hx : x.length ≤ 187) : (stuff x 5).length ≤ 230 := by
  have start : EndRunBelow 1 [] := by simp [EndRunBelow]
  obtain ⟨k, hk, bound⟩ := stuffFrom_length (n := 5) (x := x) (by decide) start
  rw [stuff_eq_stuffFrom, hk]
  omega

/-- Settles O20: 15 payload bytes give 187 and 167 bits. -/
theorem longestStuffedFrameHas230Bits : Obligations.LongestStuffedFrameHas230Bits := by
  refine ⟨fun f hf => ⟨f.bits_length, stuff_five_length_le ?_⟩, fun f hf => ⟨f.bits_length, stuff_five_length_le ?_⟩,
    by decide⟩ <;> rw [f.bits_length] <;> omega

/-! ### The DECODE commands on a stuffed frame -/

/-- Destuffing with n = 5 undoes stuffing, whatever NWIN holds (41_frame_decoder.md R140). -/
theorem decodedStream_stuff (x : Bits) : decodedStream true (stuff x 5) = x := unstuff_stuff (by decide) x

/-- Settles O26: the stream is the destuffed input, which begins with the base frame. -/
theorem decodeBaseSReadsAStuffedBaseFrame : Obligations.DecodeBaseSReadsAStuffedBaseFrame := by
  refine ⟨fun s f hlen hl hin => conclude_runDecode_ok hl ?_, fun s f extra hlen hl hin => conclude_runDecode_ok hl ?_⟩
  · rw [hin, decodedStream_stuff]
    exact decodeFrame_base_eq_ok_iff.mpr ⟨f, [], hlen, by simp, rfl⟩
  · refine decodeFrame_base_eq_ok_iff.mpr ⟨f, extra, hlen, hin, ?_⟩
    rw [← List.length_append, ← hin]
    rfl

/-- Settles O27: the same with the extended frame. -/
theorem decodeExtSReadsAStuffedExtendedFrame : Obligations.DecodeExtSReadsAStuffedExtendedFrame := by
  refine ⟨fun s f hlen hl hin => conclude_runDecode_ok hl ?_, fun s f extra hlen hl hin => conclude_runDecode_ok hl ?_⟩
  · rw [hin, decodedStream_stuff]
    exact decodeFrame_ext_eq_ok_iff.mpr ⟨f, [], hlen, by simp, rfl⟩
  · refine decodeFrame_ext_eq_ok_iff.mpr ⟨f, extra, hlen, hin, ?_⟩
    rw [← List.length_append, ← hin]
    rfl

end Sys2Proof.Machine
end

section
/-! PROOFS. Failing walks (41_frame_decoder.md R157, R158; 60_exceptions.md R230, R237): a frame layout with the widths its
DLC gives, the spans its fields then have, and what a cut or a flipped bit does to a walk. -/

namespace Sys2Proof.Machine

/-! ### A layout for a known DLC -/

/-- The width of a field in a frame whose DLC is d (41_frame_decoder.md R145). -/
def FieldSpec.widthFor (d : Nat) (spec : FieldSpec) : Nat :=
  match spec.width with
  | .bits w => w
  | .dlcBytes => 8 * d

/-- A row with its width fixed for a frame whose DLC is d. -/
def FieldSpec.withDlc (d : Nat) (spec : FieldSpec) : FieldSpec := { spec with width := .bits (spec.widthFor d) }

@[simp] theorem FieldSpec.size_withDlc (d : Nat) (spec : FieldSpec) (before : Fields) :
    (spec.withDlc d).size before = spec.widthFor d := rfl

/-- Where the fields of a layout lie for the DLC d, from a position on. -/
def layoutSpans (d : Nat) (layout : List FieldSpec) (cur : Nat) : List Span :=
  match layout with
  | [] => []
  | spec :: rest =>
    ⟨cur, spec.widthFor d, spec.missing, spec.must.map Prod.snd⟩ :: layoutSpans d rest (cur + spec.widthFor d)

/-- The position of the DLC. -/
def dlcFirst (ext : Bool) : Nat := if ext then 35 else 15

/-- The rows before the DLC. -/
def headLayout (ext : Bool) : List FieldSpec := (frameLayout ext).take (if ext then 8 else 5)

theorem frameLayout_eq_append (ext : Bool) : frameLayout ext = headLayout ext ++ tailLayout := by cases ext <;> rfl

/-- The table of 60_exceptions.md R230 is the layout's own positions. -/
theorem layoutSpans_frameLayout (ext : Bool) (d : Nat) : layoutSpans d (frameLayout ext) 0 = frameSpans ext d := by
  cases ext <;>
    simp [layoutSpans, frameLayout, baseLayout, extLayout, tailLayout, FieldSpec.widthFor, frameSpans, baseSpans,
      extSpans, tailSpans]
  · omega
  · omega

section
variable {D : Bits} {cur d : Nat} {before : Fields}

/-- Where a row asks for the width it has for the DLC d, its width may be fixed. -/
theorem walk_cons_withDlc {spec : FieldSpec} (rest : List FieldSpec) (h : spec.size before = spec.widthFor d) :
    walk D (spec :: rest) cur before = walk D (spec.withDlc d :: rest) cur before := by
  rw [walk, walk, FieldSpec.size_withDlc, h]
  rfl

/-- Two walks of one stretch of rows differ only in what they do after it. -/
theorem walk_append_congr {first rest rest' : List FieldSpec}
    (h : ∀ fs fin, walk D first cur before = .ok (fs, fin) → walk D rest fin fs = walk D rest' fin fs) :
    walk D (first ++ rest) cur before = walk D (first ++ rest') cur before := by
  induction first generalizing cur before with
  | nil => exact h before cur rfl
  | cons spec first ih =>
    rw [List.cons_append, List.cons_append, walk, walk]
    cases ht : takeField D cur (spec.size before) spec.missing with
    | error e => rfl
    | ok x =>
      cases hc : checkConstant spec.must x cur with
      | error e => simp only [hc]
      | ok u =>
        simp only [hc]
        exact ih fun fs fin hw => h fs fin (by simp only [walk, ht, hc]; exact hw)

/-- A walk of rows of fixed widths ends after the sum of the widths, with the fields of the rows. -/
theorem walk_withDlc_ok {layout : List FieldSpec} {fs : Fields} {fin : Nat}
    (h : walk D (layout.map (FieldSpec.withDlc d)) cur before = .ok (fs, fin)) :
    fin = cur + (layout.map (FieldSpec.widthFor d)).sum ∧
      fs.map Prod.fst = before.map Prod.fst ++ layout.map FieldSpec.field := by
  induction layout generalizing cur before with
  | nil => cases h; simp
  | cons spec rest ih =>
    obtain ⟨_, _, later⟩ := walk_ok_cons h
    obtain ⟨rfl, fields⟩ := ih later
    exact ⟨by simp [Nat.add_assoc], by simp [fields, FieldSpec.withDlc]⟩

end

theorem headLayout_withDlc (ext : Bool) (d : Nat) : (headLayout ext).map (FieldSpec.withDlc d) = headLayout ext := by
  cases ext <;> rfl

/-- The rows before the DLC take the bits before it, and DLC is not among them. -/
theorem walk_headLayout_ok {D : Bits} {ext : Bool} {fs : Fields} {fin : Nat}
    (h : walk D (headLayout ext) 0 [] = .ok (fs, fin)) : fin = dlcFirst ext ∧ Field.dlc ∉ fs.map Prod.fst := by
  rw [← headLayout_withDlc ext 0] at h
  obtain ⟨rfl, fields⟩ := walk_withDlc_ok h
  rw [fields]
  cases ext <;> decide

/-- A frame walk is a walk of rows of fixed widths, those for the DLC the stream holds; a stream that ends before its DLC
is there has no DATA to be measured. -/
theorem walk_frameLayout_eq {ext : Bool} {D : Bits} {d : Nat}
    (hd : dlcFirst ext + 4 ≤ D.length → val (slice D (dlcFirst ext) 4) = d) :
    walk D (frameLayout ext) 0 [] = walk D ((frameLayout ext).map (FieldSpec.withDlc d)) 0 [] := by
  rw [frameLayout_eq_append, List.map_append, headLayout_withDlc]
  refine walk_append_congr fun fs fin head => ?_
  obtain ⟨rfl, fresh⟩ := walk_headLayout_ok head
  refine walk_append_congr (first := [_]) fun fs' fin' dlcRow => ?_
  obtain ⟨room, _, taken⟩ := walk_ok_cons dlcRow
  cases taken
  refine walk_cons_withDlc _ ?_
  rw [FieldSpec.size, FieldSpec.widthFor, Fields.value, Fields.bitsOf_append_of_notMem _ fresh, ← hd room]
  rfl

/-- No constant field shares a bit with the DLC. -/
theorem constantSpan_outside_dlc (ext : Bool) (d : Nat) :
    ∀ sp ∈ frameSpans ext d, sp.must ≠ none → sp.first + sp.width ≤ dlcFirst ext ∨ dlcFirst ext + 4 ≤ sp.first := by
  cases ext <;> simp [frameSpans, baseSpans, extSpans, tailSpans, dlcFirst] <;> omega

/-! ### Slices of a changed stream -/

theorem slice_take {D : Bits} {p w k : Nat} (h : p + w ≤ k) : slice (D.take k) p w = slice D p w := by
  rw [slice, slice, List.drop_take, List.take_take, Nat.min_eq_left (by omega)]

theorem slice_set_outside {D : Bits} {p w k : Nat} (b : Bool) (h : k < p ∨ p + w ≤ k) :
    slice (D.set k b) p w = slice D p w := by
  rw [slice, slice, List.drop_set]
  split_ifs
  · rfl
  · exact List.take_set_of_le (by omega)

theorem slice_set_inside {D : Bits} {p w k : Nat} (b : Bool) (h : p ≤ k) :
    slice (D.set k b) p w = (slice D p w).set (k - p) b := by
  rw [slice, slice, List.drop_set, if_neg (by omega), List.take_set]

/-- Sequences of one length with one value are the same. -/
theorem eq_of_val_eq {x y : Bits} (hl : x.length = y.length) (hv : val x = val y) : x = y := by
  rw [← fieldBits_val x, ← fieldBits_val y, hl, hv]

/-- A flipped bit changes the value of the field it lies in. -/
theorem val_slice_flip_ne {D : Bits} {p w k : Nat} (hp : p ≤ k) (hk : k < p + w) (hw : p + w ≤ D.length) :
    val (slice (D.set k (!D.getD k false)) p w) ≠ val (slice D p w) := by
  intro same
  rw [slice_set_inside _ hp] at same
  have bits := congrArg (·[k - p]?) (eq_of_val_eq (by simp) same)
  have there : k < D.length := by omega
  have inside : k - p < w := by omega
  have place : p + (k - p) = k := by omega
  have width := slice_length D p w hw
  simp only [List.getElem?_set_self (width.symm ▸ inside)] at bits
  simp [slice, there, inside, place] at bits

/-! ### Where a walk of fixed widths fails -/

section
variable {D : Bits} {layout : List FieldSpec} {cur d : Nat} {before : Fields}

theorem le_first_of_mem_layoutSpans {sp : Span} (h : sp ∈ layoutSpans d layout cur) : cur ≤ sp.first := by
  induction layout generalizing cur with
  | nil => cases h
  | cons spec rest ih =>
    obtain rfl | later := List.mem_cons.mp h
    · exact le_rfl
    · exact (Nat.le_add_right _ _).trans (ih later)

/-- Every error is the missing or the must-be error of a span, at its first bit. -/
theorem walk_withDlc_error {e : CmdError} (h : walk D (layout.map (FieldSpec.withDlc d)) cur before = .error e) :
    ∃ sp ∈ layoutSpans d layout cur, e.pos = sp.first ∧
      ((e.kind = sp.missing ∧ D.length < sp.first + sp.width) ∨
       (some e.kind = sp.must ∧ sp.first + sp.width ≤ D.length)) := by
  induction layout generalizing cur before with
  | nil => cases h
  | cons spec rest ih =>
    obtain ⟨short, rfl⟩ | ⟨room, c, k, hm, _, rfl⟩ | ⟨_, _, later⟩ := walk_error_cons h
    · exact ⟨_, List.mem_cons_self, rfl, .inl ⟨rfl, short⟩⟩
    · have must : spec.must = some (c, k) := hm
      exact ⟨_, List.mem_cons_self, rfl, .inr ⟨by simp [must], room⟩⟩
    · obtain ⟨sp, inRest, fails⟩ := ih later
      exact ⟨sp, List.mem_cons_of_mem _ inRest, fails⟩

/-- A stream cut before or in a field misses that field. -/
theorem walk_withDlc_take {r : Fields × Nat} (h : walk D (layout.map (FieldSpec.withDlc d)) cur before = .ok r)
    {sp : Span} (hsp : sp ∈ layoutSpans d layout cur) {k : Nat} (first : sp.first ≤ k) (last : k < sp.first + sp.width) :
    walk (D.take k) (layout.map (FieldSpec.withDlc d)) cur before = .error { kind := sp.missing, pos := sp.first } := by
  induction layout generalizing cur before with
  | nil => cases hsp
  | cons spec rest ih =>
    obtain ⟨room, holds, later⟩ := walk_ok_cons h
    rw [List.map_cons]
    obtain rfl | inRest := List.mem_cons.mp hsp
    · exact walk_missing _ _ _ _ _ ((List.length_take_le k D).trans_lt last)
    · have whole : cur + spec.widthFor d ≤ k := (le_first_of_mem_layoutSpans inRest).trans first
      have same : slice (D.take k) cur (spec.widthFor d) = slice D cur (spec.widthFor d) := slice_take whole
      rw [walk_pass _ _ _ _ _ (by rw [List.length_take]; exact Nat.le_min.mpr ⟨whole, room⟩) (same ▸ holds), FieldSpec.size_withDlc, same]
      exact ih later inRest

/-- A flipped bit of a constant field makes that field fail its check. -/
theorem walk_withDlc_flip {r : Fields × Nat} (h : walk D (layout.map (FieldSpec.withDlc d)) cur before = .ok r)
    {sp : Span} (hsp : sp ∈ layoutSpans d layout cur) {kind : ErrorKind} (must : sp.must = some kind) {k : Nat}
    (first : sp.first ≤ k) (last : k < sp.first + sp.width) :
    walk (D.set k (!D.getD k false)) (layout.map (FieldSpec.withDlc d)) cur before =
      .error { kind := kind, pos := sp.first } := by
  induction layout generalizing cur before with
  | nil => cases hsp
  | cons spec rest ih =>
    obtain ⟨room, holds, later⟩ := walk_ok_cons h
    have room' : cur + spec.widthFor d ≤ (D.set k (!D.getD k false)).length := by rwa [List.length_set]
    rw [List.map_cons]
    obtain rfl | inRest := List.mem_cons.mp hsp
    · obtain ⟨⟨c, _⟩, constant, rfl⟩ := Option.map_eq_some_iff.mp must
      have value : val (slice D cur (spec.widthFor d)) = c := holds c _ constant
      exact walk_wrong _ _ _ _ _ c _ constant room' (value ▸ val_slice_flip_ne first last room)
    · have whole : cur + spec.widthFor d ≤ k := (le_first_of_mem_layoutSpans inRest).trans first
      have same := slice_set_outside (D := D) (!D.getD k false) (.inr whole)
      rw [walk_pass _ _ _ _ _ room' (same ▸ holds), FieldSpec.size_withDlc, same]
      exact ih later inRest

end

/-- Settles O30: the spans are those for the DLC the stream holds. -/
theorem walkErrorsAreThoseOfTheTable : Obligations.WalkErrorsAreThoseOfTheTable := by
  intro ext D e h
  change ∃ sp ∈ frameSpans ext (val (slice D (dlcFirst ext) 4)), _
  rw [decodeFrame_error, walk_frameLayout_eq fun _ => rfl] at h
  rw [← layoutSpans_frameLayout]
  exact walk_withDlc_error h

/-! ### Cut and flipped frames -/

/-- What lies between two parts of a sequence is a slice of it. -/
theorem slice_append_append (x y z : Bits) : slice (x ++ (y ++ z)) x.length y.length = y := by
  rw [slice, List.drop_left, List.take_left]

/-- The DLC, its value read off the stream at its position. -/
theorem dlc_of_append {D x y : Bits} {data : List Byte} {crc : BitVec 15} {ackslot : Bool} {p : Nat}
    (hD : D = x ++ tailBits data crc ackslot ++ y) (hx : x.length = p) :
    p + 4 ≤ D.length ∧ val (slice D p 4) = (BitVec.ofNat 4 data.length).toNat := by
  subst hx
  have taken := slice_append_append x (fieldBits 4 data.length)
    (payloadBits data ++ sentBits 15 crc ++ [true, ackslot, true] ++ fieldBits 7 0x7F ++ fieldBits 3 0x7 ++ y)
  have split : D = x ++ (fieldBits 4 data.length ++ (payloadBits data ++ sentBits 15 crc ++ [true, ackslot, true]
      ++ fieldBits 7 0x7F ++ fieldBits 3 0x7 ++ y)) := by
    simp only [hD, tailBits, List.append_assoc]
  rw [← split, fieldBits_length] at taken
  rw [taken, val_fieldBits, BitVec.toNat_ofNat]
  refine ⟨?_, rfl⟩
  simp [split]

/-- An accepted stream holds its DLC in full. -/
theorem decodeFrame_dlc {ext : Bool} {D : Bits} {r : FrameRegs} (h : decodeFrame ext D = .ok r) :
    dlcFirst ext + 4 ≤ D.length ∧ val (slice D (dlcFirst ext) 4) = r.dlc.toNat := by
  cases ext with
  | false =>
    obtain ⟨f, extra, _, hD, rfl⟩ := decodeFrame_base_eq_ok_iff.mp h
    exact dlc_of_append hD (by simp; rfl)
  | true =>
    obtain ⟨f, extra, _, hD, rfl⟩ := decodeFrame_ext_eq_ok_iff.mp h
    exact dlc_of_append hD (by simp; rfl)

section
variable {ext : Bool} {D : Bits} {r : FrameRegs} {sp : Span} {k : Nat} (h : decodeFrame ext D = .ok r)
  (hsp : sp ∈ frameSpans ext r.dlc.toNat) (first : sp.first ≤ k) (last : k < sp.first + sp.width)
include h hsp first last

theorem decodeFrame_take : decodeFrame ext (D.take k) = .error { kind := sp.missing, pos := sp.first } := by
  obtain ⟨_, dlc⟩ := decodeFrame_dlc h
  obtain ⟨fs, fin, hw, _⟩ := decodeFrame_ok h
  rw [walk_frameLayout_eq fun _ => dlc] at hw
  rw [← layoutSpans_frameLayout] at hsp
  rw [decodeFrame_error, walk_frameLayout_eq (d := r.dlc.toNat) fun room => ?_]
  · exact walk_withDlc_take hw hsp first last
  · rwa [slice_take (room.trans (List.length_take_le k D))]

theorem decodeFrame_flip {kind : ErrorKind} (must : sp.must = some kind) :
    decodeFrame ext (D.set k (!D.getD k false)) = .error { kind := kind, pos := sp.first } := by
  obtain ⟨_, dlc⟩ := decodeFrame_dlc h
  obtain ⟨fs, fin, hw, _⟩ := decodeFrame_ok h
  have outside := constantSpan_outside_dlc ext r.dlc.toNat sp hsp (by simp [must])
  rw [walk_frameLayout_eq fun _ => dlc] at hw
  rw [← layoutSpans_frameLayout] at hsp
  rw [decodeFrame_error, walk_frameLayout_eq (d := r.dlc.toNat) fun _ => ?_]
  · exact walk_withDlc_flip hw hsp must first last
  · rwa [slice_set_outside _ (by omega)]

end

/-- Settles O31: a cut stream fails as it stands, and destuffing the stuffed cut gives it back. -/
theorem truncatedFramesMissTheCutField : Obligations.TruncatedFramesMissTheCutField := by
  refine ⟨fun ext D r sp k h hsp first last => ?_, by decide +kernel⟩
  rw [decodedStream_stuff]
  exact ⟨decodeFrame_take h hsp first last, decodeFrame_take h hsp first last⟩

/-- Settles O32: a stuffed stream is walked as what it destuffs to. -/
theorem flippedConstantsAreReported : Obligations.FlippedConstantsAreReported := by
  intro ext D r sp kind k h hsp must first last
  have reported := decodeFrame_flip h hsp first last must
  exact ⟨reported, fun y hy => (congrArg (decodeFrame ext) hy).trans reported⟩

/-! ### The outcome of a DECODE command -/

/-- What a DECODE command computes: the F_* registers, or the error of the LEN check or of the walk
(41_frame_decoder.md R140). -/
def State.decodeOutcome (s : State) (ext stuffed : Bool) : Except CmdError FrameRegs :=
  if s.len.toNat ≤ s.cfg.maxBits then decodeFrame ext (decodedStream stuffed s.inputBits)
  else .error { kind := .operandRange, pos := 0x014 }

theorem runDecode_eq_map (s : State) (ext stuffed : Bool) :
    s.runDecode ext stuffed = (fun f => { s with frame := f }) <$> s.decodeOutcome ext stuffed := by
  rw [State.runDecode_eq, State.decodeOutcome]
  split_ifs
  · cases decodeFrame ext (decodedStream stuffed s.inputBits) <;> rfl
  · rfl

/-- LEN and the bits below it decide what a DECODE command computes (41_frame_decoder.md R156). -/
theorem decodeOutcome_congr {s s' : State} (hc : s.cfg = s'.cfg) (hl : s.len = s'.len) (hx : s.inputBits = s'.inputBits)
    (ext stuffed : Bool) : s.decodeOutcome ext stuffed = s'.decodeOutcome ext stuffed := by
  rw [State.decodeOutcome, State.decodeOutcome, hc, hl, hx]

/-- Settles O33: both commands conclude one outcome, each on its own state. -/
theorem decodeOutcomeDependsOnItsInputAlone : Obligations.DecodeOutcomeDependsOnItsInputAlone := by
  intro i s s' hi hc hl hx
  obtain ⟨ext, stuffed, run⟩ : ∃ ext stuffed, ∀ u, commandResult i u = u.runDecode ext stuffed := by
    simp only [List.mem_cons, List.not_mem_nil, or_false] at hi
    obtain rfl | rfl | rfl | rfl := hi <;> exact ⟨_, _, fun _ => rfl⟩
  rw [exec_eq_conclude, exec_eq_conclude, run, run, runDecode_eq_map, runDecode_eq_map, decodeOutcome_congr hc hl hx]
  cases s'.decodeOutcome ext stuffed with
  | ok f => exact ⟨_, _, rfl, rfl, rfl, rfl, rfl, fun _ => rfl, by simp⟩
  | error e => exact ⟨_, _, rfl, rfl, rfl, rfl, rfl, by simp, fun _ => ⟨rfl, rfl⟩⟩

end Sys2Proof.Machine
end

section
/-! PROOFS. UNSTUFF (40_destuffer.md R120, R121): the two buffers after OUTBUF is filled, and the length of the output. -/

namespace Sys2Proof.Machine

/-! ### The buffers after a fill -/

theorem outbuf_byte_listed {s : State} (hs : s.Inv) {k j : Nat} (hk : k < s.cfg.maxBits / 32) (hj : j < 4) :
    outbufBase + 4 * k + j ∈ s.mem.map Prod.fst := by
  obtain ⟨_, addrs⟩ := hs.mem
  rw [addrs, mem_bufferAddrs, outbufBase]
  omega

/-- Every OUTBUF bit is written: `x` from index 0 on, 0 above (40_destuffer.md R120). -/
theorem bufBit_fillOutbuf {s : State} (hs : s.Inv) (x : Bits) {i : Nat} (hi : i < s.cfg.maxBits) :
    (s.mem.fillOutbuf s.cfg.maxBits x).bufBit outbufBase i = x.getD i false := by
  obtain ⟨wholeWords, _, _⟩ := (config_wf_iff s.cfg).mp hs.cfg
  have hk : i / 32 < s.cfg.maxBits / 32 := by omega
  have index : 32 * (i / 32) + (31 - (31 - i % 32)) = i := by omega
  rw [Memory.bufBit, Memory.word_fillOutbuf _ _ _ _ (by omega) fun j hj => outbuf_byte_listed hs hk hj,
    packWord_getLsbD _ _ _ (by omega), index]

theorem word_fillOutbuf_other (m : Memory) (n : Nat) (x : Bits) {a : Nat}
    (h : a + 4 ≤ outbufBase ∨ outbufBase + n / 8 ≤ a) : (m.fillOutbuf n x).word a = m.word a := by
  have bytes : ∀ j < 4, (m.fillOutbuf n x).byteAt (a + j) = m.byteAt (a + j) := by
    intro j hj
    rw [Memory.byteAt, Memory.byte_fillOutbuf_other _ _ _ _ (by omega), Memory.byteAt]
  have first := bytes 0 (by decide)
  rw [Nat.add_zero] at first
  rw [Memory.word, Memory.word, bytes 3 (by decide), bytes 2 (by decide), bytes 1 (by decide), first]

/-- BITBUF lies below OUTBUF for every legal capacity. -/
theorem bufBit_bitbuf_fillOutbuf {s : State} (hc : s.cfg.wf = true) (x : Bits) {i : Nat} (hi : i < s.cfg.maxBits) :
    (s.mem.fillOutbuf s.cfg.maxBits x).bufBit bitbufBase i = s.mem.bufBit bitbufBase i := by
  obtain ⟨_, _, capacity_le⟩ := (config_wf_iff s.cfg).mp hc
  rw [Memory.bufBit, word_fillOutbuf_other _ _ _ (by rw [bitbufBase, outbufBase]; omega), Memory.bufBit]

/-! ### The command -/

/-- What UNSTUFF computes: the destuffed bits, or the error of the NWIN or of the LEN check (60_exceptions.md R238). -/
def State.unstuffOutcome (s : State) : Except CmdError Bits :=
  if 1 ≤ s.nwin.toNat ∧ s.nwin.toNat ≤ 31 then
    if s.len.toNat ≤ s.cfg.maxBits then .ok (unstuff s.inputBits s.nwin.toNat)
    else .error { kind := .operandRange, pos := 0x014 }
  else .error { kind := .operandRange, pos := 0x010 }

theorem commandResult_unstuff (s : State) : commandResult .unstuff s = s.writeUnstuffed <$> s.unstuffOutcome := by
  rw [commandResult, State.runUnstuff_eq, State.unstuffOutcome]
  split_ifs <;> rfl

theorem unstuffOutcome_ok {s : State} {y : Bits} (h : s.unstuffOutcome = .ok y) :
    1 ≤ s.nwin.toNat ∧ s.len.toNat ≤ s.cfg.maxBits ∧ y = unstuff s.inputBits s.nwin.toNat := by
  unfold State.unstuffOutcome at h
  split_ifs at h with hn hl
  cases h
  exact ⟨hn.1, hl, rfl⟩

/-- The output fits OUTLEN: it is no longer than the input, which fits BITBUF. -/
theorem writeUnstuffed_outlen {s : State} (hc : s.cfg.wf = true) {y : Bits} (hy : y.length ≤ s.cfg.maxBits) :
    (s.writeUnstuffed y).outlen.toNat = y.length := by
  obtain ⟨_, _, capacity_le⟩ := (config_wf_iff s.cfg).mp hc
  rw [State.writeUnstuffed_outlen, BitVec.toNat_ofNat]
  exact Nat.mod_eq_of_lt (by omega)

theorem unstuff_inputBits_length_le (s : State) (n : Nat) : (unstuff s.inputBits n).length ≤ s.len.toNat :=
  (unstuff_length_le s.inputBits n).trans s.inputBits_length.le

/-- Settles O21: the fill writes OUTBUF only, and keeps every address. -/
theorem unstuffWritesTheDestuffedBits : Obligations.UnstuffWritesTheDestuffedBits := by
  intro s hs lower upper hl
  have outcome : s.unstuffOutcome = .ok (unstuff s.inputBits s.nwin.toNat) := by
    rw [State.unstuffOutcome, if_pos ⟨lower, upper⟩, if_pos hl]
  rw [exec_eq_conclude, commandResult_unstuff, outcome]
  refine ⟨_, rfl, rfl, ?outlen, fun k hk => bufBit_fillOutbuf hs _ hk,
    fun k hk => bufBit_bitbuf_fillOutbuf hs.cfg _ hk, (Memory.wf_fillOutbuf _ _ _).mpr hs.mem.1⟩
  exact writeUnstuffed_outlen hs.cfg ((unstuff_inputBits_length_le s _).trans hl)

/-! ### The length of the output -/

/-- Every index is either dropped or gives its bit. -/
theorem length_filterMap_add_filter (x : Bits) (p : Nat → Bool) {l : List Nat} (hl : ∀ j ∈ l, j < x.length) :
    (l.filterMap fun j => if p j then none else x[j]?).length + (l.filter p).length = l.length := by
  induction l with
  | nil => rfl
  | cons j l ih =>
    obtain ⟨hj, later⟩ := List.forall_mem_cons.mp hl
    have counted := ih later
    cases hp : p j with
    | true => simp [hp]; omega
    | false => simp [hp, hj]; omega

theorem unstuff_length_add_dropped {n : Nat} (hn : 1 ≤ n) (x : Bits) :
    (unstuff x n).length + ((List.range x.length).filter (droppedAt x n)).length = x.length := by
  rw [unstuff_eq_filterMap hn, length_filterMap_add_filter x (droppedAt x n) fun _ => List.mem_range.mp, List.length_range]

/-- A dropped index lies at n or above and before the trailer. -/
theorem dropped_length_le (x : Bits) (n : Nat) :
    ((List.range x.length).filter (droppedAt x n)).length ≤ x.length - 13 - n := by
  have between : (List.range x.length).filter (droppedAt x n) ⊆ List.range' n (x.length - 13 - n) := by
    intro j hj
    have dropped : droppedAt x n j = true := (List.mem_filter.mp hj).2
    have inside : ¬ (x.length ≤ j + 13 ∨ j < n) := fun outside => by simp [droppedAt_eq_false outside] at dropped
    rw [List.mem_range'_1]
    omega
  simpa using (List.subperm_of_subset (List.nodup_range.filter _) between).length_le

/-- What a successful UNSTUFF leaves, read back off the command. -/
theorem exec_unstuff_success {s t : State} (h : exec .unstuff s = .next t) (he : t.err = false) :
    1 ≤ s.nwin.toNat ∧ s.len.toNat ≤ s.cfg.maxBits ∧
      t = (s.writeUnstuffed (unstuff s.inputBits s.nwin.toNat)).completeOk := by
  obtain ⟨u, hu, rfl⟩ := exec_success h he
  rw [commandResult_unstuff, map_eq_ok_iff] at hu
  obtain ⟨y, hy, rfl⟩ := hu
  obtain ⟨hn, hl, rfl⟩ := unstuffOutcome_ok hy
  exact ⟨hn, hl, rfl⟩

/-- Settles O22: the dropped indices are counted, and none of them is among the first n or the last 13. -/
theorem unstuffOutputLength : Obligations.UnstuffOutputLength := by
  intro s t hs h he
  obtain ⟨hn, hl, rfl⟩ := exec_unstuff_success h he
  have counted := unstuff_length_add_dropped hn s.inputBits
  have few := dropped_length_le s.inputBits s.nwin.toNat
  have outlen := writeUnstuffed_outlen hs.cfg ((unstuff_inputBits_length_le s s.nwin.toNat).trans hl)
  rw [s.inputBits_length] at counted few
  rw [State.completeOk_outlen, outlen]
  refine ⟨counted, by omega, fun k above inside => ?_⟩
  rw [State.completeOk_mem, State.writeUnstuffed_mem]
  refine (bufBit_fillOutbuf hs _ inside).trans ?_
  exact List.getD_eq_default _ _ above

/-- Settles O23: the two checks in their order, and a failing completion. -/
theorem unstuffRefusesBadOperands : Obligations.UnstuffRefusesBadOperands := by
  refine fun s => ⟨fun illegal => ?_, fun lower upper hl => ?_⟩ <;>
    rw [exec_eq_conclude, commandResult_unstuff, State.unstuffOutcome]
  · rw [if_neg (by omega)]
    rfl
  · rw [if_pos ⟨lower, upper⟩, if_neg hl.not_ge]
    rfl

end Sys2Proof.Machine
end

section
/-! PROOFS. Completions (60_exceptions.md R236, 30_encoding.md R93): what a command writes and leaves alone, what it reads,
and that it runs to its completion whatever accesses meet it. -/

namespace Sys2Proof.Machine

/-! ### Every command completes -/

/-- A completion always answers a next state. -/
theorem State.conclude_next (s : State) (r : Except CmdError State) : ∃ t, s.conclude r = .next t := by
  cases r with
  | ok u => exact ⟨_, rfl⟩
  | error e => exact ⟨_, rfl⟩

theorem exec_next (i : Instr) (s : State) : ∃ t, exec i s = .next t := by
  rw [exec_eq_conclude]
  exact s.conclude_next _

theorem runCommand_next (op : Word) (s : State) : ∃ t, runCommand op s = .next t := by
  unfold runCommand
  cases decode op with
  | ok i => exact exec_next i s
  | error e => exact ⟨_, rfl⟩

theorem exec_wign {i : Instr} {s t : State} (h : exec i s = .next t) : t.wign = s.wign := by
  obtain ⟨u, hu, rfl⟩ | ⟨e, _, rfl⟩ := exec_cases h
  · obtain ⟨y, rfl⟩ | ⟨f, rfl⟩ | ⟨d, rfl⟩ | ⟨c, rfl⟩ | ⟨j, rfl⟩ := commandResult_ok_cases hu <;> simp
  · rfl

/-- Settles O6: a completion is a success or the error raised. -/
theorem everyCommandCompletes : Obligations.EveryCommandCompletes := by
  intro i s
  obtain ⟨t, h⟩ := exec_next i s
  refine ⟨t, h, ?_⟩
  rw [exec_wign h]
  obtain ⟨u, _, rfl⟩ | ⟨e, _, rfl⟩ := exec_cases h
  · exact ⟨rfl, rfl, rfl, .inl ⟨rfl, rfl, rfl⟩⟩
  · exact ⟨rfl, rfl, rfl, .inr ⟨e.kind, _, rfl⟩⟩

/-- STATUS after a success (10_state.md R24): DONE, and WIGN as it was. -/
theorem statusWord_completeOk (u : State) : u.completeOk.statusWord = 0x2 ||| (if u.wign then 0x8 else 0) := by
  have flags : ∀ w : Bool, bitWord false 0 ||| bitWord true 1 ||| bitWord false 2 ||| bitWord w 3
      ||| ((0 : BitVec 8).setWidth 32 <<< 8) = (0x2 ||| (if w then 0x8 else 0) : Word) := by decide
  exact flags u.wign

/-- STATUS after a failure: DONE, ERR and the code, and WIGN as it was. -/
theorem statusWord_completeError (s : State) (e : CmdError) :
    (s.completeError e).statusWord = ((e.kind.code.setWidth 32 <<< 8) ||| 0x6) ||| (if s.wign then 0x8 else 0) := by
  have flags : ∀ w : Bool, bitWord false 0 ||| bitWord true 1 ||| bitWord true 2 ||| bitWord w 3 =
      (0x6 ||| (if w then 0x8 else 0) : Word) := by decide
  change bitWord false 0 ||| bitWord true 1 ||| bitWord true 2 ||| bitWord s.wign 3 ||| (e.kind.code.setWidth 32 <<< 8) = _
  rw [flags]
  ac_rfl

/-- Settles O7: STATUS by the two shapes of a completion. -/
theorem statusWordAfterACompletion : Obligations.StatusWordAfterACompletion := by
  intro i s t h
  rw [← exec_wign h]
  obtain ⟨u, _, rfl⟩ | ⟨e, _, rfl⟩ := exec_cases h
  · exact statusWord_completeOk u
  · exact statusWord_completeError s e

/-! ### The completion as a step -/

/-- With no input pending the completion comes next. -/
theorem step_busy_no_input {s : State} {op : Word} (hr : s.inReset = false) (hp : s.phase = .busy op)
    (hi : s.inputs = []) : step s = runCommand op s := by
  cases hd : s.delay <;> simp [step, hr, hp, hd, hi]

theorem runCommand_of_decode {op : Word} {i : Instr} (h : decode op = .ok i) (s : State) : runCommand op s = exec i s := by
  rw [runCommand, h]

/-- Settles O4: the completion is due, by the count or since no input is left; a placed word is due at once. -/
theorem stepRunsTheDecodedCommand : Obligations.StepRunsTheDecodedCommand := by
  refine ⟨fun s op i hr hp due hd => ?_, fun s i => ?_⟩
  · rw [← runCommand_of_decode hd]
    exact due.elim (step_busy_due hr hp) (step_busy_no_input hr hp)
  · have word : BitVec.ofNat 32 ((encode i).toNat % 2 ^ 32) = encode i := by
      rw [Nat.mod_eq_of_lt (encode i).isLt, BitVec.ofNat_toNat, BitVec.setWidth_eq]
    have placed : (s.withFetchWord 32 (encode i).toNat).phase = .busy (encode i) := by
      rw [State.withFetchWord_phase, word]
    rw [step_busy_due rfl placed rfl, runCommand_of_decode (decode_encode i)]

/-! ### What a command writes -/

/-- Settles O8: a failure writes the outcome, a success the results of the command's row beside it. -/
theorem commandsWriteOnlyTheirRow : Obligations.CommandsWriteOnlyTheirRow := by
  intro i s t h
  obtain ⟨u, hu, rfl⟩ | ⟨e, _, rfl⟩ := exec_cases h
  case inr =>
    refine ⟨fun _ => rfl, ?_⟩
    cases i with
    | unstuff => exact ⟨rfl, fun _ _ => rfl⟩
    | _ => exact ⟨rfl, fun _ => rfl⟩
  case inl =>
    refine ⟨nofun, ?_⟩
    cases i with
    | unstuff =>
      rw [commandResult_unstuff, map_eq_ok_iff] at hu
      obtain ⟨y, _, rfl⟩ := hu
      exact ⟨rfl, fun a outside => Memory.byte_fillOutbuf_other s.mem s.cfg.maxBits y a outside⟩
    | decodeBaseU | decodeBaseS | decodeExtU | decodeExtS =>
      obtain ⟨f, rfl⟩ := runDecode_ok hu
      exact ⟨rfl, fun _ => rfl⟩
    | idToDbid =>
      rw [commandResult_idToDbid, map_eq_ok_iff] at hu
      obtain ⟨c, _, rfl⟩ := hu
      cases c <;> exact ⟨rfl, fun _ => rfl⟩
    | dbidToId =>
      rw [commandResult_dbidToId, map_eq_ok_iff] at hu
      obtain ⟨d, _, rfl⟩ := hu
      cases d <;> exact ⟨rfl, fun _ => rfl⟩
    | j1939Decode =>
      rw [commandResult_j1939Decode, map_eq_ok_iff] at hu
      obtain ⟨v, _, rfl⟩ := hu
      exact ⟨rfl, fun _ => rfl⟩
    | j1939Encode =>
      rw [commandResult_j1939Encode, map_eq_ok_iff] at hu
      obtain ⟨j, _, rfl⟩ := hu
      exact ⟨rfl, fun _ => rfl⟩

/-! ### What a command reads -/

/-- Two runs that conclude one outcome, each on its own state, agree on the outcome registers and, where what they write
agrees, on the results. -/
theorem same_of_commandResult_map {α : Type} {i : Instr} {s s' t t' : State} {x x' : Except CmdError α}
    {write write' : α → State} (hr : commandResult i s = write <$> x) (hr' : commandResult i s' = write' <$> x')
    (hx : x = x') (h : exec i s = .next t) (h' : exec i s' = .next t')
    (same : ∀ a, SameResults i (write a).completeOk (write' a).completeOk) :
    t.err = t'.err ∧ t.errcode = t'.errcode ∧ t.errpos = t'.errpos ∧ (t.err = false → SameResults i t t') := by
  subst hx
  rw [exec_eq_conclude, hr] at h
  rw [exec_eq_conclude, hr'] at h'
  cases x with
  | ok a =>
    cases h
    cases h'
    exact ⟨rfl, rfl, rfl, fun _ => same a⟩
  | error e =>
    cases h
    cases h'
    exact ⟨rfl, rfl, rfl, nofun⟩

section
variable {s s' : State}

theorem unstuffOutcome_congr (hc : s.cfg = s'.cfg) (hn : s.nwin = s'.nwin) (hl : s.len = s'.len)
    (hx : s.inputBits = s'.inputBits) : s.unstuffOutcome = s'.unstuffOutcome := by
  rw [State.unstuffOutcome, State.unstuffOutcome, hc, hn, hl, hx]

theorem canIdOperand_congr (hk : s.opk = s'.opk) (hv : s.opv = s'.opv) : s.canIdOperand = s'.canIdOperand := by
  rw [State.canIdOperand, State.canIdOperand, hk, hv]

theorem canDbIdOperand_congr (hk : s.opk = s'.opk) (hv : s.opv = s'.opv) : s.canDbIdOperand = s'.canDbIdOperand := by
  rw [State.canDbIdOperand, State.canDbIdOperand, hk, hv]

theorem j1939Operand_congr (hk : s.opk = s'.opk) (hv : s.opv = s'.opv) : s.j1939Operand = s'.j1939Operand := by
  rw [State.j1939Operand, State.j1939Operand, hk, hv]

theorem j1939FieldsOperand_congr (hp : s.jePrio = s'.jePrio) (hg : s.jePgn = s'.jePgn) (ha : s.jeSa = s'.jeSa) :
    s.j1939FieldsOperand = s'.j1939FieldsOperand := by
  rw [State.j1939FieldsOperand, State.j1939FieldsOperand, hp, hg, ha]

end

/-- Settles O9: the operands give one outcome, and what is written of it does not depend on the rest of the state. -/
theorem commandsReadOnlyTheirRow : Obligations.CommandsReadOnlyTheirRow := by
  intro i s s' t t' hs hs' same h h'
  cases i with
  | unstuff =>
    obtain ⟨hc, hn, hl, hx⟩ := same
    refine same_of_commandResult_map (commandResult_unstuff s) (commandResult_unstuff s')
      (unstuffOutcome_congr hc hn hl hx) h h' fun y => ⟨rfl, fun k hk => ?_⟩
    have inside : k < s'.cfg.maxBits := hc ▸ hk
    exact (bufBit_fillOutbuf hs y hk).trans (bufBit_fillOutbuf hs' y inside).symm
  | decodeBaseU | decodeBaseS | decodeExtU | decodeExtS =>
    obtain ⟨hc, hl, hx⟩ := same
    exact same_of_commandResult_map (runDecode_eq_map s _ _) (runDecode_eq_map s' _ _)
      (decodeOutcome_congr hc hl hx _ _) h h' fun f => rfl
  | idToDbid =>
    obtain ⟨hk, hv⟩ := same
    exact same_of_commandResult_map (commandResult_idToDbid s) (commandResult_idToDbid s')
      (canIdOperand_congr hk hv) h h' fun c => by cases c <;> exact ⟨rfl, rfl⟩
  | dbidToId =>
    obtain ⟨hk, hv⟩ := same
    exact same_of_commandResult_map (commandResult_dbidToId s) (commandResult_dbidToId s')
      (canDbIdOperand_congr hk hv) h h' fun d => by cases d <;> exact ⟨rfl, rfl⟩
  | j1939Decode =>
    obtain ⟨hk, hv⟩ := same
    exact same_of_commandResult_map (commandResult_j1939Decode s) (commandResult_j1939Decode s')
      (j1939Operand_congr hk hv) h h' fun v => rfl
  | j1939Encode =>
    obtain ⟨hp, hg, ha⟩ := same
    exact same_of_commandResult_map (commandResult_j1939Encode s) (commandResult_j1939Encode s')
      (j1939FieldsOperand_congr hp hg ha) h h' fun j => ⟨rfl, rfl⟩

/-! ### A command among accesses -/

/-- The state with other values in the fields that accesses to a running command change: WIGN and, of the model's own
fields, the inputs, the count before the completion and the read data. -/
def State.withAccesses (s : State) (wign : Bool) (inputs : List Input) (delay : Nat) (lastRead : Option Word) : State :=
  { s with wign := wign, inputs := inputs, delay := delay, lastRead := lastRead }

section
variable (s : State) (w : Bool) (is : List Input) (d : Nat) (l : Option Word)

theorem writeCanId_withAccesses (c : CanId) :
    (s.withAccesses w is d l).writeCanId c = (s.writeCanId c).withAccesses w is d l := by cases c <;> rfl

theorem writeCanDbId_withAccesses (c : CanDbId) :
    (s.withAccesses w is d l).writeCanDbId c = (s.writeCanDbId c).withAccesses w is d l := by cases c <;> rfl

/-- No command reads or writes those fields. -/
theorem commandResult_withAccesses (i : Instr) :
    commandResult i (s.withAccesses w is d l) = (fun u => u.withAccesses w is d l) <$> commandResult i s := by
  have decodes : ∀ ext stuffed, (s.withAccesses w is d l).runDecode ext stuffed =
      (fun u => u.withAccesses w is d l) <$> s.runDecode ext stuffed := by
    intro ext stuffed
    rw [runDecode_eq_map, runDecode_eq_map, Functor.map_map]
    rfl
  cases i with
  | unstuff => rw [commandResult_unstuff, commandResult_unstuff, Functor.map_map]; rfl
  | decodeBaseU | decodeBaseS | decodeExtU | decodeExtS => exact decodes _ _
  | idToDbid =>
    rw [commandResult_idToDbid, commandResult_idToDbid, Functor.map_map]
    simp only [writeCanDbId_withAccesses]
    rfl
  | dbidToId =>
    rw [commandResult_dbidToId, commandResult_dbidToId, Functor.map_map]
    simp only [writeCanId_withAccesses]
    rfl
  | j1939Decode => rw [commandResult_j1939Decode, commandResult_j1939Decode, Functor.map_map]; rfl
  | j1939Encode => rw [commandResult_j1939Encode, commandResult_j1939Encode, Functor.map_map]; rfl

theorem runCommand_withAccesses {op : Word} {u : State} (h : runCommand op s = .next u) :
    runCommand op (s.withAccesses w is d l) = .next (u.withAccesses w is d l) := by
  obtain ⟨i, hd, hexec⟩ | ⟨e, hd, illegal⟩ := runCommand_cases h
  · rw [runCommand_of_decode hd, exec_eq_conclude, commandResult_withAccesses]
    obtain ⟨v, hv, rfl⟩ | ⟨e, he, rfl⟩ := exec_cases hexec
    · rw [hv]
      rfl
    · rw [he]
      rfl
  · cases illegal
    rw [runCommand, hd]
    rfl

end

theorem statusWord_getLsbD_zero (s : State) : s.statusWord.getLsbD 0 = s.phase.isBusy := by
  simp only [State.statusWord, BitVec.getLsbD_or, bitWord_getLsbD]
  simp

/-- An accepted access that meets a running command changes those fields only, and leaves accepted accesses. -/
theorem acceptInput_busy {s : State} {op : Word} {e : Input} (hp : s.phase = .busy op) (he : e.accepted s.cfg) :
    ∃ w is l, s.acceptInput e = .next (s.withAccesses w is s.delay l) ∧ (is = s.inputs ∨ is = e :: s.inputs) := by
  cases e with
  | read width addr =>
    obtain ⟨g, hg⟩ := he
    obtain ⟨rfl, _⟩ := (portTarget_accepts_iff s.cfg width addr).mp ⟨g, hg⟩
    exact ⟨s.wign, s.inputs, _, acceptInput_read hg, .inl rfl⟩
  | write width addr v =>
    obtain ⟨g, hg⟩ := he
    obtain ⟨rfl, _⟩ := (portTarget_accepts_iff s.cfg width addr).mp ⟨g, hg⟩
    exact ⟨true, s.inputs, s.lastRead, acceptInput_write_busy v hp hg, .inl rfl⟩
  | waitIdle =>
    have reads : s.statusWord.getLsbD 0 = true := by rw [statusWord_getLsbD_zero, hp]; rfl
    exact ⟨s.wign, .waitIdle :: s.inputs, some s.statusWord, if_pos reads, .inr rfl⟩
  | reset asserted => cases he

/-- A step goes before the rest of a run. -/
theorem core_run_succ {s t : State} (h : step s = .next t) (k : Nat) : core.run (k + 1) s = core.run k t := by
  have hstep : core.step s = .next t := h
  simp only [Host.Core.run, hstep]

/-- A running command completes on the operands it has, after at most as many accepted accesses as its count says. -/
theorem busy_run_completes {s u : State} {op : Word} (hr : s.inReset = false) (hp : s.phase = .busy op)
    (accepted : ∀ e ∈ s.inputs, e.accepted s.cfg) (hu : runCommand op s = .next u) :
    ∃ k w is d l, 1 ≤ k ∧ k ≤ s.delay + 1 ∧ core.run k s = .next (u.withAccesses w is d l) := by
  induction hd : s.delay generalizing s u with
  | zero =>
    exact ⟨1, u.wign, u.inputs, u.delay, u.lastRead, le_rfl, le_rfl,
      core_run_succ ((step_busy_due hr hp hd).trans hu) 0⟩
  | succ d ih =>
    cases hi : s.inputs with
    | nil =>
      exact ⟨1, u.wign, u.inputs, u.delay, u.lastRead, le_rfl, by omega,
        core_run_succ ((step_busy_no_input hr hp hi).trans hu) 0⟩
    | cons e rest =>
      rw [hi] at accepted
      obtain ⟨w, is, l, hstep, left⟩ := acceptInput_busy (s := { s with inputs := rest, delay := d }) hp
        (accepted e List.mem_cons_self)
      have leftAccepted : ∀ e' ∈ is, e'.accepted s.cfg := by
        obtain rfl | rfl := left
        · exact fun e' he' => accepted e' (List.mem_cons_of_mem e he')
        · exact accepted
      obtain ⟨k, w', is', d', l', lower, upper, hrun⟩ := ih (s := s.withAccesses w is d l) hr hp leftAccepted
        (runCommand_withAccesses s w is d l hu) rfl
      refine ⟨k + 1, w', is', d', l', by omega, by omega, ?_⟩
      rw [core_run_succ ((step_busy_input hr hp hd hi).trans hstep)]
      exact hrun

theorem runCommand_phase_done {op : Word} {s t : State} (h : runCommand op s = .next t) :
    t.phase = .idle ∧ t.done = true := by
  obtain ⟨i, _, hexec⟩ | ⟨_, _, illegal⟩ := runCommand_cases h
  · obtain ⟨u, _, rfl⟩ | ⟨e, _, rfl⟩ := exec_cases hexec <;> exact ⟨rfl, rfl⟩
  · cases illegal
    exact ⟨rfl, rfl⟩

/-- Settles O10: by induction on the count, the accesses before the completion change none of the command's operands. -/
theorem commandRunsOnItsStartOperands : Obligations.CommandRunsOnItsStartOperands := by
  intro s op hr hp accepted
  obtain ⟨u, hu⟩ := runCommand_next op s
  obtain ⟨idle, done⟩ := runCommand_phase_done hu
  obtain ⟨k, w, is, d, l, lower, upper, hrun⟩ := busy_run_completes hr hp accepted hu
  exact ⟨k, u.withAccesses w is d l, u, lower, upper, hrun, idle, done, hu, rfl⟩

end Sys2Proof.Machine
end

section
/-! PROOFS. Identifier round trips (42_identifier.md R200): the packed and the taken-apart form of an identifier, and the
commands one after the other. -/

namespace Sys2Proof.Machine

/-! ### The raw form as its three fields side by side -/

theorem J1939Id.raw_eq_append (j : J1939Id) : j.raw = j.priority ++ j.pgn ++ j.sa := by
  apply BitVec.eq_of_getLsbD_eq
  intro i hi
  simp only [J1939Id.raw, BitVec.getLsbD_or, BitVec.getLsbD_shiftLeft, BitVec.getLsbD_setWidth, BitVec.getLsbD_append]
  by_cases inSa : i < 8
  · have belowPrio : i < 26 := by omega
    simp [inSa, belowPrio, hi]
  · have aboveSa := BitVec.getLsbD_of_ge j.sa i (by omega)
    by_cases inPgn : i < 26
    · have width : i - 8 < 18 := by omega
      have inRaw : i - 8 < 29 := by omega
      simp [inSa, inPgn, width, inRaw, hi, aboveSa]
    · have abovePgn := BitVec.getLsbD_of_ge j.pgn (i - 8) (by omega)
      have width : ¬ i - 8 < 18 := by omega
      have inRaw : i - 26 < 29 := by omega
      simp [inSa, inPgn, width, inRaw, hi, aboveSa, abovePgn, Nat.sub_sub]

theorem J1939Id.raw_unpack (v : BitVec 29) : (J1939Id.unpack v).raw = v := by
  rw [J1939Id.raw_eq_append, J1939Id.unpack,
    BitVec.extractLsb'_append_extractLsb'_eq_extractLsb' (show 26 = 8 + 18 from rfl),
    BitVec.extractLsb'_append_extractLsb'_eq_extractLsb' (show 8 = 0 + 8 from rfl)]
  exact BitVec.extractLsb'_eq_self

theorem J1939Id.unpack_raw (j : J1939Id) : J1939Id.unpack j.raw = j := by
  have prio : (j.priority ++ j.pgn ++ j.sa).extractLsb' 26 3 = j.priority := by
    rw [BitVec.extractLsb'_append_eq_of_le (by decide)]
    exact BitVec.extractLsb'_append_eq_left
  have pgn : (j.priority ++ j.pgn ++ j.sa).extractLsb' 8 18 = j.pgn := by
    rw [BitVec.extractLsb'_append_eq_of_le (by decide)]
    exact BitVec.extractLsb'_append_eq_right
  have sa : (j.priority ++ j.pgn ++ j.sa).extractLsb' 0 8 = j.sa := BitVec.extractLsb'_append_eq_right
  rw [J1939Id.raw_eq_append, J1939Id.unpack, prio, pgn, sa]

/-! ### Command after command -/

/-- ID_TO_DBID sets bit 31 of an Extended identifier, which the mask of DBID_TO_ID takes off again. -/
theorem or_bit31_and_mask29 {v : Word} (hv : v.toNat < 2 ^ 29) : (v ||| 0x80000000) &&& 0x1FFFFFFF = v := by
  apply BitVec.eq_of_toNat_eq
  have mask : (0x1FFFFFFF : Word).toNat = 2 ^ 29 - 1 := rfl
  have bit31 : (0x80000000 : Word).toNat % 2 ^ 29 = 0 := rfl
  rw [BitVec.toNat_and, mask, Nat.and_two_pow_sub_one_eq_mod, BitVec.toNat_or, Nat.or_mod_two_pow, bit31, Nat.or_zero,
    Nat.mod_eq_of_lt hv]

theorem idToDbid_dbidToId {s t u : State}
    (legal : (s.opk = .standard ∧ s.opv.toNat < 2 ^ 11) ∨ (s.opk = .extended ∧ s.opv.toNat < 2 ^ 29))
    (ht : exec .idToDbid s = .next t) (hu : exec .dbidToId { t with opk := t.resk, opv := t.resv } = .next u) :
    u.err = false ∧ u.resk = s.opk ∧ u.resv = s.opv := by
  obtain ⟨_, converts⟩ := idToDbidConverts
  obtain ⟨toStandard, toExtended, _⟩ := converts s
  obtain ⟨_, convertsBack⟩ := dbidToIdConverts
  obtain ⟨backStandard, backExtended, _⟩ := convertsBack { t with opk := t.resk, opv := t.resv }
  obtain ⟨hk, hv⟩ | ⟨hk, hv⟩ := legal
  · cases ht.symm.trans (toStandard hk hv)
    cases hu.symm.trans (backStandard rfl hv)
    exact ⟨rfl, hk.symm, rfl⟩
  · cases ht.symm.trans (toExtended hk hv)
    cases hu.symm.trans (backExtended rfl)
    exact ⟨rfl, hk.symm, or_bit31_and_mask29 hv⟩

/-- J1939_DECODE of a legal operand. -/
theorem exec_j1939Decode_legal {s : State} (hk : s.opk = .extended) (hv : s.opv.toNat < 2 ^ 29) :
    exec .j1939Decode s =
      .next ({ s with jd := jdRegs (J1939Id.unpack (s.opv.setWidth 29)) } : State).completeOk := by
  rw [exec_j1939Decode, State.j1939Operand_extended s hk, if_pos hv]
  rfl

theorem toNat_setWidth_lt {w k : Nat} (x : BitVec w) (h : w ≤ k) : (x.setWidth k).toNat < 2 ^ w := by
  rw [BitVec.toNat_setWidth_of_le h]
  exact x.isLt

/-- J1939_ENCODE of the fields of an identifier, as the registers show them. -/
theorem exec_j1939Encode_legal {s : State} {j : J1939Id} (hp : s.jePrio = j.priority.setWidth 32)
    (hg : s.jePgn = j.pgn.setWidth 32) (ha : s.jeSa = j.sa.setWidth 32) :
    exec .j1939Encode s = .next (s.writeCanId (.extended j.raw)).completeOk := by
  have fields : s.j1939FieldsOperand = .ok j := by
    rw [State.j1939FieldsOperand_eq, hp, hg, ha, if_pos (toNat_setWidth_lt _ (by decide)),
      if_pos (toNat_setWidth_lt _ (by decide)), if_pos (toNat_setWidth_lt _ (by decide))]
    simp
  rw [exec_j1939Encode, fields]
  rfl

theorem j1939Decode_j1939Encode {s t u : State} (hk : s.opk = .extended) (hv : s.opv.toNat < 2 ^ 29)
    (ht : exec .j1939Decode s = .next t)
    (hu : exec .j1939Encode { t with
      jePrio := t.readReg .jdPrio, jePgn := t.readReg .jdPgn, jeSa := t.readReg .jdSa } = .next u) :
    u.err = false ∧ u.resk = .extended ∧ u.resv = s.opv := by
  cases ht.symm.trans (exec_j1939Decode_legal hk hv)
  cases hu.symm.trans (exec_j1939Encode_legal (j := J1939Id.unpack (s.opv.setWidth 29)) rfl rfl rfl)
  refine ⟨rfl, rfl, ?_⟩
  change (J1939Id.unpack (s.opv.setWidth 29)).raw.setWidth 32 = s.opv
  rw [J1939Id.raw_unpack, setWidth_setWidth_of_toNat_lt hv]

theorem j1939Encode_j1939Decode {s t u : State} (hp : s.jePrio.toNat < 2 ^ 3) (hg : s.jePgn.toNat < 2 ^ 18)
    (ha : s.jeSa.toNat < 2 ^ 8) (ht : exec .j1939Encode s = .next t)
    (hu : exec .j1939Decode { t with opk := t.resk, opv := t.resv } = .next u) :
    u.err = false ∧ u.readReg .jdPrio = s.jePrio ∧ u.readReg .jdPgn = s.jePgn ∧ u.readReg .jdSa = s.jeSa := by
  have prio := setWidth_setWidth_of_toNat_lt hp
  have pgn := setWidth_setWidth_of_toNat_lt hg
  have sa := setWidth_setWidth_of_toNat_lt ha
  cases ht.symm.trans (exec_j1939Encode_legal
    (j := ⟨s.jePrio.setWidth 3, s.jePgn.setWidth 18, s.jeSa.setWidth 8⟩) prio.symm pgn.symm sa.symm)
  cases hu.symm.trans (exec_j1939Decode_legal rfl (toNat_setWidth_lt _ (by decide)))
  have taken : J1939Id.unpack (((J1939Id.raw ⟨s.jePrio.setWidth 3, s.jePgn.setWidth 18, s.jeSa.setWidth 8⟩).setWidth 32
      : Word).setWidth 29) = ⟨s.jePrio.setWidth 3, s.jePgn.setWidth 18, s.jeSa.setWidth 8⟩ := by
    rw [BitVec.setWidth_setWidth_of_le _ (by decide), BitVec.setWidth_eq, J1939Id.unpack_raw]
  exact ⟨rfl, (congrArg (fun j => j.priority.setWidth 32) taken).trans prio,
    (congrArg (fun j => j.pgn.setWidth 32) taken).trans pgn, (congrArg (fun j => j.sa.setWidth 32) taken).trans sa⟩

/-- Settles O39: each round trip runs the two commands on legal operands. -/
theorem identifierRoundTrips : Obligations.IdentifierRoundTrips := by
  refine ⟨fun s t u => idToDbid_dbidToId, fun s t u => j1939Decode_j1939Encode, fun s t u => j1939Encode_j1939Decode,
    fun s t hk ht => ?_⟩
  cases ht.symm.trans (conversionOnlyByJ1939Decode.1 s hk)
  exact ⟨rfl, rfl⟩

end Sys2Proof.Machine
end

section
/-! PROOFS. The address map and the accesses of a host program (20_memory.md R75 to R80, 30_encoding.md R102,
70_reset_and_hazards.md R261, R264). -/

namespace Sys2Proof.Machine

/-! ### The address map -/

/-- What an accepted access reaches is what its offset names. -/
theorem targetAt_of_portTarget {cfg : Config} {width : AccessWidth} {addr : BitVec 12} {g : Target}
    (h : portTarget cfg width addr = .ok g) : targetAt cfg addr.toNat = some g ∧ addr.toNat % 4 = 0 := by
  obtain ⟨rfl, aligned, mapped⟩ := (portTarget_accepts_iff cfg width addr).mp ⟨g, h⟩
  obtain ⟨g', hg'⟩ := Option.isSome_iff_exists.mp mapped
  simp only [portTarget, aligned, hg'] at h
  exact ⟨hg'.trans (congrArg some (Except.ok.inj h)), aligned⟩

theorem Reg.offset_lt (r : Reg) : r.offset < 0x100 := by cases r <;> decide

/-- The offsets below the buffers that name no register (20_memory.md R75). -/
theorem find_reg_eq_none_iff {a : Nat} (ha : a < 0x100) (aligned : a % 4 = 0) :
    (Reg.all.find? fun r => r.offset == a) = none ↔
      a = 0x01C ∨ a = 0x03C ∨ (0x050 ≤ a ∧ a < 0x060) ∨ a = 0x08C ∨ 0x0A0 ≤ a := by
  have words : ∀ k : Fin 64, (Reg.all.find? fun r => r.offset == 4 * k.val) = none ↔
      4 * k.val = 0x01C ∨ 4 * k.val = 0x03C ∨ (0x050 ≤ 4 * k.val ∧ 4 * k.val < 0x060) ∨ 4 * k.val = 0x08C ∨
        0x0A0 ≤ 4 * k.val := by decide
  have word := words ⟨a / 4, by omega⟩
  rwa [show 4 * (a / 4) = a by omega] at word

/-- Above the registers only the two buffers are mapped. -/
theorem targetAt_eq_none_iff (cfg : Config) (a : Nat) :
    targetAt cfg a = none ↔
      ¬ (0x100 ≤ a ∧ a < 0x100 + cfg.maxBits / 8) ∧ ¬ (0x200 ≤ a ∧ a < 0x200 + cfg.maxBits / 8) ∧
        (Reg.all.find? fun r => r.offset == a) = none := by
  rw [targetAt, bitbufBase, outbufBase]
  split_ifs with inBitbuf inOutbuf
  · simp [inBitbuf]
  · simp [inOutbuf]
  · simp only [Option.map_eq_none_iff, inBitbuf, inOutbuf, not_false_eq_true, true_and]

theorem find_reg_eq_none_of_ge {a : Nat} (ha : 0x100 ≤ a) : (Reg.all.find? fun r => r.offset == a) = none := by
  rw [List.find?_eq_none]
  intro r _ same
  have below := r.offset_lt
  rw [beq_iff_eq.mp same] at below
  omega

/-- Settles O43: the registers lie below the buffers, and above them only the buffers are mapped. -/
theorem addressMap : Obligations.AddressMap := by
  intro cfg hc
  obtain ⟨_, _, capacity_le⟩ := (config_wf_iff cfg).mp hc
  refine ⟨fun r => ?register, fun k hk => ⟨?bitbuf, ?outbuf⟩, fun a ha aligned => ?unmapped⟩
  case register =>
    have small := r.offset_lt
    have reached := targetAt_of_portTarget (portTarget_reg cfg r)
    rwa [BitVec.toNat_ofNat, Nat.mod_eq_of_lt (by omega)] at reached
  case bitbuf =>
    obtain ⟨reached, _⟩ := targetAt_of_portTarget (portTarget_bitbuf hc hk)
    rwa [BitVec.toNat_ofNat, Nat.mod_eq_of_lt (by omega)] at reached
  case outbuf =>
    obtain ⟨reached, _⟩ := targetAt_of_portTarget (portTarget_outbuf hc hk)
    rwa [BitVec.toNat_ofNat, Nat.mod_eq_of_lt (by omega)] at reached
  case unmapped =>
    rw [targetAt_eq_none_iff]
    by_cases low : a < 0x100
    · rw [find_reg_eq_none_iff low aligned]
      omega
    · have noRegister := find_reg_eq_none_of_ge (Nat.le_of_not_lt low)
      simp only [noRegister, and_true]
      omega

/-! ### Accesses while IDLE -/

/-- Settles O45: the write stores the word, whose four bytes the invariant lists. -/
theorem bitbufWordReadsBack : Obligations.BitbufWordReadsBack := by
  intro s k v rest hs hr hp hk hi
  have target := portTarget_bitbuf hs.cfg hk
  refine ⟨_, step_idle_write hr hp target hi, rfl, ?_, fun a outside => Memory.byte_setWord_other s.mem _ a v outside,
    (Memory.wf_setWord _ _ _).mpr hs.mem.1, Memory.setWord_addrs _ _ _⟩
  exact (portRead_ok (s := ({ s with inputs := rest } : State).writeTarget (.bitbuf k) v) target).trans (congrArg (·, none) (readTarget_writeTarget_bitbuf hs hk v))

/-- The answer to a read depends neither on the inputs still to come nor on when the command completes. -/
theorem portRead_inputs_delay (s : State) (rest : List Input) (d : Nat) (width : AccessWidth) (addr : BitVec 12) :
    ({ s with inputs := rest, delay := d } : State).portRead width addr = s.portRead width addr := by
  simp only [State.portRead, readTarget_inputs_delay]

/-- Settles O46: the step is the read, and an accepted read writes the read data only. -/
theorem readsHaveNoSideEffect : Obligations.ReadsHaveNoSideEffect := by
  intro s t width addr rest hr before hi h
  obtain ⟨d, hstep⟩ := step_eq_acceptInput hr before hi
  obtain ⟨_, _, v, same, answer, rfl⟩ | ⟨_, _, _, _, no, _⟩ | ⟨_, _, _, _, no, _⟩ | ⟨no, _⟩ | ⟨no, _⟩ | ⟨_, no, _⟩ :=
    acceptInput_cases (hstep.symm.trans h)
  case inl =>
    cases same
    rw [portRead_inputs_delay] at answer
    rw [answer]
  all_goals cases no

/-- Settles O48: CLR writes 1 to DONE and WIGN. -/
theorem clrAcknowledgesACompletion : Obligations.ClrAcknowledgesACompletion := by
  intro s rest hr hp hi
  have clears : ∀ u : State, u.ackStatus 0x0000000A = { u with done := false, wign := false } := by
    intro u
    simp [State.ackStatus]
  refine ⟨_, step_idle_write hr hp (portTarget_reg s.cfg .status) hi, clears _, irq_eq_false_of_done ?_⟩
  exact congrArg State.done (clears _)

/-- Settles O49: the write to CMD is a start, and the completion runs the command of the word. -/
theorem runStartsTheNamedCommand : Obligations.RunStartsTheNamedCommand := by
  intro s i rest hr hp hi
  refine ⟨rfl, _, step_idle_write hr hp (portTarget_reg s.cfg .cmd) hi, rfl, rfl, ?_⟩
  exact (step_busy_due (s := { ({ s with inputs := rest } : State).startCommand (encode i) with delay := 0 })
    hr rfl rfl).trans (runCommand_of_decode (decode_encode i) _)

theorem acceptInput_waitIdle (s : State) :
    s.acceptInput .waitIdle =
      .next { s with
        lastRead := some s.statusWord, inputs := if s.phase.isBusy then .waitIdle :: s.inputs else s.inputs } := by
  rw [State.acceptInput, statusWord_getLsbD_zero]
  cases s.phase.isBusy <;> rfl

/-- Settles O51: the poll reads BUSY, which decides whether WAIT stays the next input. -/
theorem waitEndsWhenIdle : Obligations.WaitEndsWhenIdle := by
  intro s rest hr hi
  refine ⟨fun hp => ?_, fun op d hp hd => ?_⟩
  · rw [step_idle hr hp hi, acceptInput_waitIdle, if_neg (by simp [hp, Phase.isBusy])]
    rfl
  · rw [step_busy_input hr hp hd hi, acceptInput_waitIdle, if_pos (by simp [hp, Phase.isBusy]), hi]
    rfl

/-! ### In reset, and with nothing pending -/

/-- Settles O54: in reset the port answers a read with a free value and drops a write. -/
theorem accessDuringReset : Obligations.AccessDuringReset :=
  fun _ _ _ _ hr => ⟨fun _ hi => step_inReset hr hi, fun hi => ⟨_, step_inReset hr hi⟩⟩

theorem step_idle_no_input {s : State} (hr : s.inReset = false) (hp : s.phase = .idle) (hi : s.inputs = []) :
    step s = .next s := by
  simp [step, hr, hp, hi]

/-- Settles O55: with no input and no command there is nothing to carry out. -/
theorem idleBlockWaits : Obligations.IdleBlockWaits :=
  ⟨fun _ => step_idle_no_input, step_idle_no_input rfl rfl rfl⟩

end Sys2Proof.Machine
end

section
/-! PROOFS. The accesses of a BITS line (30_encoding.md R102, 20_memory.md R72): one BITBUF word after the other, then LEN. -/

namespace Sys2Proof.Machine

/-- A memory after the words of `x` with the given indices were written to BITBUF, in that order. -/
def Memory.loadWords (m : Memory) (x : Bits) (words : List Nat) : Memory :=
  words.foldl (fun m j => m.setWord (bitbufBase + 4 * j) (packWord x j)) m

theorem Memory.loadWords_concat (m : Memory) (x : Bits) (words : List Nat) (j : Nat) :
    m.loadWords x (words ++ [j]) = (m.loadWords x words).setWord (bitbufBase + 4 * j) (packWord x j) := by
  rw [Memory.loadWords, List.foldl_append]
  rfl

@[simp] theorem Memory.loadWords_addrs (m : Memory) (x : Bits) (words : List Nat) :
    (m.loadWords x words).map Prod.fst = m.map Prod.fst := by
  induction words using List.reverseRecOn with
  | nil => rfl
  | append_singleton words j ih => rw [Memory.loadWords_concat, Memory.setWord_addrs, ih]

/-- A later word leaves the words before it alone. -/
theorem Memory.word_loadWords_range {m : Memory} (x : Bits) {n k : Nat} (hk : k < n)
    (listed : ∀ k < n, ∀ j < 4, bitbufBase + 4 * k + j ∈ m.map Prod.fst) :
    (m.loadWords x (List.range n)).word (bitbufBase + 4 * k) = packWord x k := by
  induction n with
  | zero => omega
  | succ n ih =>
    rw [List.range_succ, Memory.loadWords_concat]
    by_cases last : k = n
    · subst last
      refine Memory.word_setWord_same _ _ _ fun j hj => ?_
      rw [Memory.loadWords_addrs]
      exact listed k (by omega) j hj
    · rw [Memory.word_setWord_other _ _ _ _ (by omega)]
      exact ih (by omega) fun k' hk' => listed k' (by omega)

/-- From IDLE a run carries out one BITBUF write after the other. -/
theorem run_bitbuf_writes (x : Bits) (words : List Nat) (k : Nat) {s : State} {rest : List Input} (hc : s.cfg.wf = true)
    (hr : s.inReset = false) (hp : s.phase = .idle) (inside : ∀ j ∈ words, j < s.cfg.maxBits / 32)
    (hi : s.inputs = words.map (fun j => Input.write .word (HostPlace.bitbuf j).offsetOf (packWord x j)) ++ rest) :
    core.run (words.length + k) s = core.run k { s with inputs := rest, mem := s.mem.loadWords x words } := by
  induction words generalizing s with
  | nil =>
    have unchanged : ({ s with inputs := rest } : State) = s := by rw [← show s.inputs = rest from hi]
    rw [List.length_nil, Nat.zero_add]
    exact congrArg (core.run k) unchanged.symm
  | cons j words ih =>
    obtain ⟨jInside, laterInside⟩ := List.forall_mem_cons.mp inside
    rw [List.length_cons, Nat.add_right_comm, core_run_succ (step_idle_write hr hp (portTarget_bitbuf hc jInside) hi)]
    exact ih (s := { s with
      inputs := words.map (fun j => Input.write .word (HostPlace.bitbuf j).offsetOf (packWord x j)) ++ rest
      mem := s.mem.setWord (bitbufBase + 4 * j) (packWord x j) }) hc hr hp laterInside rfl

theorem run_len_write {s : State} {v : Word} (hr : s.inReset = false) (hp : s.phase = .idle)
    (hi : s.inputs = [.write .word (HostPlace.reg .len).offsetOf v]) :
    core.run 1 s = .next { s with inputs := [], len := v } :=
  core_run_succ (step_idle_write hr hp (portTarget_reg s.cfg .len) hi) 0

/-- BITBUF then holds the string. -/
theorem bufBit_loadWords {s : State} (hs : s.Inv) {x : Bits} (hx : x.length ≤ s.cfg.maxBits) {i : Nat}
    (hi : i < x.length) :
    (s.mem.loadWords x (List.range ((x.length + 31) / 32))).bufBit bitbufBase i = x[i] := by
  obtain ⟨wholeWords, _, _⟩ := (config_wf_iff s.cfg).mp hs.cfg
  have index : 32 * (i / 32) + (31 - (31 - i % 32)) = i := by omega
  rw [Memory.bufBit, Memory.word_loadWords_range x (by omega) fun k hk j hj => bitbuf_byte_listed hs (by omega) hj,
    packWord_getLsbD _ _ _ (by omega), index]
  simp [hi]

/-- Settles O50: the writes fill the words that hold the string, and the last one sets LEN. -/
theorem bitsLineLoadsTheInput : Obligations.BitsLineLoadsTheInput := by
  intro s x hs hr hp hx hi
  obtain ⟨wholeWords, _, capacity_le⟩ := (config_wf_iff s.cfg).mp hs.cfg
  have count : s.inputs.length = (List.range ((x.length + 31) / 32)).length + 1 := by
    rw [hi]
    simp [HostLine.inputs]
  have inside : ∀ j ∈ List.range ((x.length + 31) / 32), j < s.cfg.maxBits / 32 := by
    intro j hj
    rw [List.mem_range] at hj
    omega
  have len : (BitVec.ofNat 32 x.length).toNat = x.length := Nat.mod_eq_of_lt (by omega)
  rw [count, run_bitbuf_writes x _ 1 hs.cfg hr hp inside hi]
  refine ⟨_, run_len_write hr hp rfl, ?_, len, rfl⟩
  refine List.ext_getElem ((State.inputBits_length _).trans len) fun i _ hi' => ?_
  rw [State.inputBits_getElem]
  exact bufBit_loadWords hs hx hi'

end Sys2Proof.Machine
end

section
/-! PROOFS. The invariant (State.Inv) and where a step can stop: what each operation of a step does to the invariant, to
the capacity, and when it is a bus error. -/

namespace Sys2Proof.Machine

/-! ### The registers of a decoded frame -/

theorem payloadWordOf_three_low (data : List Byte) (hlen : data.length ≤ 15) :
    (payloadWordOf data 3).extractLsb' 0 8 = 0 := by
  rw [payloadWordOf, BitVec.extractLsb'_append_eq_right]
  exact List.getD_eq_default _ _ hlen

/-- F_END and F_DLEN of a frame of `n + 8 * k` bits in a stream of `len` bits. -/
theorem frame_lengths {n k len cap : Nat} (hk : k ≤ 15) (hlen : n + 8 * k ≤ len) (hcap : len ≤ cap)
    (capacity_le : cap ≤ 2048) :
    (BitVec.ofNat 12 (n + 8 * k)).toNat = n + 8 * (BitVec.ofNat 4 k).toNat ∧
      (BitVec.ofNat 12 (n + 8 * k)).toNat ≤ (BitVec.ofNat 12 len).toNat ∧ (BitVec.ofNat 12 len).toNat ≤ cap := by
  have k4 : (BitVec.ofNat 4 k).toNat = k := Nat.mod_eq_of_lt (by omega)
  have fend : (BitVec.ofNat 12 (n + 8 * k)).toNat = n + 8 * k := Nat.mod_eq_of_lt (by omega)
  have dlen : (BitVec.ofNat 12 len).toNat = len := Nat.mod_eq_of_lt (by omega)
  rw [k4, fend, dlen]
  exact ⟨rfl, hlen, hcap⟩

/-- A successful DECODE leaves F_* as the invariant says. -/
theorem frameOk_of_decodeFrame {s : State} (hc : s.cfg.wf = true) {ext : Bool} {D : Bits} {r : FrameRegs}
    (h : decodeFrame ext D = .ok r) (hD : D.length ≤ s.cfg.maxBits) : ({ s with frame := r } : State).frameOk := by
  obtain ⟨_, _, capacity_le⟩ := (config_wf_iff s.cfg).mp hc
  cases ext with
  | false =>
    obtain ⟨f, extra, hlen, split, rfl⟩ := decodeFrame_base_eq_ok_iff.mp h
    have constants : ∀ a b c : Bool, ((if a then 0x002 else 0) ||| (if b then 0x020 else 0) ||| (if c then 0x080 else 0)
        ||| 0x140 : BitVec 9) &&& 0x14D = 0x140 := by decide
    have room : 47 + 8 * f.data.length ≤ D.length := by
      rw [split, List.length_append, f.bits_length]
      omega
    obtain ⟨fend, inStream, dlen⟩ := frame_lengths hlen room hD capacity_le
    exact .inr ⟨⟨rfl, rfl⟩, constants _ _ _, rfl, rfl, fend, inStream, dlen, payloadWordOf_three_low f.data hlen⟩
  | true =>
    obtain ⟨f, extra, hlen, split, rfl⟩ := decodeFrame_ext_eq_ok_iff.mp h
    have constants : ∀ a b c d : Bool, ((if a then 0x002 else 0) ||| (if b then 0x010 else 0)
        ||| (if c then 0x020 else 0) ||| (if d then 0x080 else 0) ||| 0x14C : BitVec 9) &&& 0x14D = 0x14C := by decide
    have room : 67 + 8 * f.data.length ≤ D.length := by
      rw [split, List.length_append, f.bits_length]
      omega
    obtain ⟨fend, inStream, dlen⟩ := frame_lengths hlen room hD capacity_le
    exact .inr ⟨rfl, constants _ _ _ _, rfl, rfl, fend, inStream, dlen, payloadWordOf_three_low f.data hlen⟩

theorem decodedStream_length_le (stuffed : Bool) (x : Bits) : (decodedStream stuffed x).length ≤ x.length := by
  cases stuffed with
  | false => exact le_rfl
  | true => exact unstuff_length_le x _

/-! ### Completions -/

theorem legalErrcode_zero : legalErrcode 0 := by decide

theorem ErrorKind.code_legal (k : ErrorKind) : legalErrcode k.code := by cases k <;> decide

section
variable {s u t : State}

theorem inv_completeOk (hs : s.Inv) : s.completeOk.Inv :=
  ⟨hs.cfg, hs.mem, ⟨fun busy => absurd rfl busy, by simp, legalErrcode_zero, fun _ => rfl⟩, hs.outlen, hs.jd, hs.frame⟩

theorem inv_completeError (hs : s.Inv) (e : CmdError) : (s.completeError e).Inv :=
  ⟨hs.cfg, hs.mem,
    ⟨fun busy => absurd rfl busy, ⟨fun _ => e.kind.code_ne_zero, fun _ => rfl⟩, e.kind.code_legal, nofun⟩,
    hs.outlen, hs.jd, hs.frame⟩

theorem inv_runDecode (hs : s.Inv) {ext stuffed : Bool} (h : s.runDecode ext stuffed = .ok u) : u.Inv := by
  obtain ⟨f, hl, hf, hr⟩ | ⟨e, _, _, hr⟩ | ⟨_, hr⟩ := s.runDecode_cases ext stuffed <;> cases hr.symm.trans h
  have short : (decodedStream stuffed s.inputBits).length ≤ s.cfg.maxBits :=
    (decodedStream_length_le stuffed s.inputBits).trans (s.inputBits_length.trans_le hl)
  exact ⟨hs.cfg, hs.mem, hs.outcome, hs.outlen, hs.jd, frameOk_of_decodeFrame hs.cfg hf short⟩

theorem inv_writeCanId (hs : s.Inv) (c : CanId) : (s.writeCanId c).Inv := by
  cases c <;> exact ⟨hs.cfg, hs.mem, hs.outcome, hs.outlen, hs.jd, hs.frame⟩

theorem inv_writeCanDbId (hs : s.Inv) (d : CanDbId) : (s.writeCanDbId d).Inv := by
  cases d <;> exact ⟨hs.cfg, hs.mem, hs.outcome, hs.outlen, hs.jd, hs.frame⟩

/-- The results a command writes meet the invariant. -/
theorem inv_commandResult (hs : s.Inv) {i : Instr} (h : commandResult i s = .ok u) : u.Inv := by
  cases i with
  | unstuff =>
    rw [commandResult_unstuff, map_eq_ok_iff] at h
    obtain ⟨y, hy, rfl⟩ := h
    obtain ⟨_, hl, rfl⟩ := unstuffOutcome_ok hy
    have short := (unstuff_inputBits_length_le s s.nwin.toNat).trans hl
    refine ⟨hs.cfg, ⟨(Memory.wf_fillOutbuf _ _ _).mpr hs.mem.1, (Memory.fillOutbuf_addrs _ _ _).trans hs.mem.2⟩,
      hs.outcome, (writeUnstuffed_outlen hs.cfg short).trans_le short, hs.jd, hs.frame⟩
  | decodeBaseU | decodeBaseS | decodeExtU | decodeExtS => exact inv_runDecode hs h
  | idToDbid =>
    rw [commandResult_idToDbid, map_eq_ok_iff] at h
    obtain ⟨c, _, rfl⟩ := h
    exact inv_writeCanDbId hs _
  | dbidToId =>
    rw [commandResult_dbidToId, map_eq_ok_iff] at h
    obtain ⟨d, _, rfl⟩ := h
    exact inv_writeCanId hs _
  | j1939Decode =>
    rw [commandResult_j1939Decode, map_eq_ok_iff] at h
    obtain ⟨v, _, rfl⟩ := h
    exact ⟨hs.cfg, hs.mem, hs.outcome, hs.outlen, .inr rfl, hs.frame⟩
  | j1939Encode =>
    rw [commandResult_j1939Encode, map_eq_ok_iff] at h
    obtain ⟨j, _, rfl⟩ := h
    exact inv_writeCanId hs _

theorem inv_runCommand (hs : s.Inv) {op : Word} (h : runCommand op s = .next t) : t.Inv := by
  obtain ⟨i, _, hexec⟩ | ⟨_, _, illegal⟩ := runCommand_cases h
  · obtain ⟨u, hu, rfl⟩ | ⟨e, _, rfl⟩ := exec_cases hexec
    · exact inv_completeOk (inv_commandResult hs hu)
    · exact inv_completeError hs e
  · cases illegal
    exact inv_completeError hs _

end

/-! ### Reset -/

/-- Every register at its reset value and the buffers at any value meet the invariant. -/
theorem inv_of_reset_values {cfg : Config} (hc : cfg.wf = true) (draw : Nat) :
    ({ State.resetWith cfg with mem := Memory.afterReset cfg draw } : State).Inv := by
  obtain ⟨_, _, capacity_le⟩ := (config_wf_iff cfg).mp hc
  exact ⟨hc, ⟨Memory.wf_afterReset cfg draw capacity_le, Memory.afterReset_addrs cfg draw⟩,
    ⟨fun busy => absurd rfl busy, by simp [State.resetWith], legalErrcode_zero, fun _ => rfl⟩,
    Nat.zero_le _, .inl rfl, .inl rfl⟩

theorem inv_resetWith {cfg : Config} (hc : cfg.wf = true) : (State.resetWith cfg).Inv := inv_of_reset_values hc 0

/-- Settles O56: the reset values, for the default capacity too. -/
theorem resetMeetsTheInvariant : Obligations.ResetMeetsTheInvariant :=
  ⟨inv_resetWith (by decide), fun _ => inv_resetWith⟩

/-! ### Inputs -/

section
variable {s t : State} (hs : s.Inv)
include hs

/-- The invariant says nothing of the reset line, the model's own fields, WIGN and the read data. -/
theorem inv_bookkeeping (inReset : Bool) (inputs : List Input) (delay draws : Nat) (lastRead : Option Word)
    (wign : Bool) :
    ({ s with
      inReset := inReset, inputs := inputs, delay := delay, draws := draws, lastRead := lastRead,
      wign := wign } : State).Inv :=
  ⟨hs.cfg, hs.mem, hs.outcome, hs.outlen, hs.jd, hs.frame⟩

theorem inv_applyReset (asserted : Bool) : (s.applyReset asserted).Inv := by
  obtain ⟨cfg, mem, outcome, outlen, jd, frame⟩ := inv_of_reset_values hs.cfg s.draws
  exact ⟨cfg, mem, outcome, outlen, jd, frame⟩

theorem inv_startCommand (v : Word) : (s.startCommand v).Inv :=
  ⟨hs.cfg, hs.mem, ⟨fun _ => ⟨rfl, rfl⟩, by simp, legalErrcode_zero, fun _ => rfl⟩, hs.outlen, hs.jd, hs.frame⟩

theorem inv_ackStatus (v : Word) : (s.ackStatus v).Inv := by
  obtain ⟨busy, errcode, legal, errpos⟩ := hs.outcome
  refine ⟨hs.cfg, hs.mem, ⟨fun hp => ?_, errcode, legal, errpos⟩, hs.outlen, hs.jd, hs.frame⟩
  obtain ⟨done, err⟩ := busy hp
  exact ⟨by simp [State.ackStatus, done], err⟩

theorem inv_writeReg (r : Reg) (v : Word) : (s.writeReg r v).Inv := by
  obtain rfl | rfl | stored | ignored := r.cmd_or_status_or_rw_or_ro
  · exact inv_startCommand hs v
  · exact inv_ackStatus hs v
  · have same : ∀ r ∈ Reg.rw, (s.writeReg r v).Inv := by
      refine forall_mem_rw.mpr ⟨?_, ?_, ?_, ?_, ?_, ?_, ?_, ?_⟩ <;>
        exact ⟨hs.cfg, hs.mem, hs.outcome, hs.outlen, hs.jd, hs.frame⟩
    exact same r stored
  · rwa [writeReg_ro s v r ignored]

theorem inv_writeTarget (g : Target) (v : Word) : (s.writeTarget g v).Inv := by
  cases g with
  | reg r => exact inv_writeReg hs r v
  | bitbuf k =>
    exact ⟨hs.cfg, ⟨(Memory.wf_setWord _ _ _).mpr hs.mem.1, (Memory.setWord_addrs _ _ _).trans hs.mem.2⟩,
      hs.outcome, hs.outlen, hs.jd, hs.frame⟩
  | outbuf k => exact hs

theorem inv_acceptInput {e : Input} (h : s.acceptInput e = .next t) : t.Inv := by
  obtain ⟨_, _, _, _, _, rfl⟩ | ⟨_, _, _, _, _, _, _, rfl⟩ | ⟨_, _, v, g, _, _, _, rfl⟩ | ⟨_, rfl⟩ | ⟨_, rfl⟩ |
    ⟨asserted, _, rfl⟩ := acceptInput_cases h
  · exact inv_bookkeeping hs ..
  · exact inv_bookkeeping hs ..
  · exact inv_writeTarget hs g v
  · exact inv_bookkeeping hs ..
  · exact inv_bookkeeping hs ..
  · exact inv_applyReset hs asserted

theorem inv_inputInReset (e : Input) : (s.inputInReset e).Inv := by
  cases e with
  | read width addr => exact inv_bookkeeping hs ..
  | write width addr v => exact hs
  | waitIdle =>
    unfold State.inputInReset
    split_ifs
    · exact inv_bookkeeping hs ..
    · exact inv_bookkeeping hs ..
  | reset asserted => exact inv_applyReset hs asserted

end

/-- Settles O57: each case of a step is an input, whose effect keeps the invariant, or a completion, whose results meet
it. -/
theorem stepKeepsTheInvariant : Obligations.StepKeepsTheInvariant := by
  intro s t hs h
  obtain ⟨rfl, _⟩ | ⟨e, rest, _, _, rfl⟩ | ⟨e, rest, _, _, _, input⟩ | ⟨_, e, rest, d, _, _, _, _, input⟩ |
    ⟨op, _, _, _, completion⟩ := step_cases h
  · exact hs
  · exact inv_inputInReset (inv_bookkeeping hs ..) e
  · exact inv_acceptInput (inv_bookkeeping hs ..) input
  · exact inv_acceptInput (inv_bookkeeping hs ..) input
  · exact inv_runCommand hs completion

/-! ### Where a step stops -/

section
variable {s t : State}

theorem exec_cfg {i : Instr} (h : exec i s = .next t) : t.cfg = s.cfg := by
  obtain ⟨u, hr, rfl⟩ | ⟨e, _, rfl⟩ := exec_cases h
  · obtain ⟨y, rfl⟩ | ⟨f, rfl⟩ | ⟨d, rfl⟩ | ⟨c, rfl⟩ | ⟨j, rfl⟩ := commandResult_ok_cases hr <;> simp
  · rfl

theorem runCommand_cfg {op : Word} (h : runCommand op s = .next t) : t.cfg = s.cfg := by
  obtain ⟨i, _, hexec⟩ | ⟨_, _, illegal⟩ := runCommand_cases h
  · exact exec_cfg hexec
  · cases illegal
    rfl

theorem writeTarget_cfg (s : State) (g : Target) (v : Word) : (s.writeTarget g v).cfg = s.cfg := by
  cases g with
  | reg r => cases r <;> rfl
  | bitbuf k => rfl
  | outbuf k => rfl

theorem acceptInput_cfg {e : Input} (h : s.acceptInput e = .next t) : t.cfg = s.cfg := by
  obtain ⟨_, _, _, _, _, rfl⟩ | ⟨_, _, _, _, _, _, _, rfl⟩ | ⟨_, _, v, g, _, _, _, rfl⟩ | ⟨_, rfl⟩ | ⟨_, rfl⟩ |
    ⟨_, _, rfl⟩ := acceptInput_cases h
  case inr.inr.inl => exact writeTarget_cfg s g v
  all_goals rfl

theorem inputInReset_cfg (s : State) (e : Input) : (s.inputInReset e).cfg = s.cfg := by
  cases e with
  | read width addr => rfl
  | write width addr v => rfl
  | waitIdle =>
    unfold State.inputInReset
    split_ifs <;> rfl
  | reset asserted => rfl

/-- The capacity is no state of the block (00_scope.md R6). -/
theorem step_cfg (h : step s = .next t) : t.cfg = s.cfg := by
  obtain ⟨rfl, _⟩ | ⟨e, rest, _, _, rfl⟩ | ⟨e, rest, _, _, _, input⟩ | ⟨_, e, rest, d, _, _, _, _, input⟩ |
    ⟨op, _, _, _, completion⟩ := step_cases h
  · rfl
  · exact inputInReset_cfg _ e
  · exact acceptInput_cfg (s := { s with inputs := rest }) input
  · exact acceptInput_cfg (s := { s with inputs := rest, delay := d }) input
  · exact runCommand_cfg completion

end

/-- An input is carried out, or it is an access the port refuses. -/
theorem acceptInput_next_or_refused (s : State) (e : Input) :
    (∃ t, s.acceptInput e = .next t) ∨
    ∃ reason width addr, s.acceptInput e = .fault (.busError reason) ∧ portTarget s.cfg width addr = .error reason ∧
      (e = .read width addr ∨ ∃ v, e = .write width addr v) := by
  cases e with
  | read width addr =>
    cases hg : portTarget s.cfg width addr with
    | ok g => exact .inl ⟨_, by rw [State.acceptInput, portRead_ok hg]⟩
    | error reason =>
      exact .inr ⟨reason, width, addr, acceptInput_refused (v := 0) hg (.inl rfl), hg, .inl rfl⟩
  | write width addr v =>
    cases hg : portTarget s.cfg width addr with
    | ok g => exact .inl ⟨_, by rw [State.acceptInput, portWrite_ok v hg]⟩
    | error reason => exact .inr ⟨reason, width, addr, acceptInput_refused hg (.inr rfl), hg, .inr ⟨v, rfl⟩⟩
  | waitIdle => exact .inl ⟨_, acceptInput_waitIdle s⟩
  | reset asserted => exact .inl ⟨_, rfl⟩

/-- A step goes on, or it carries out an input outside reset. -/
theorem step_next_or_acceptInput (s : State) :
    (∃ t, step s = .next t) ∨
    ∃ e rest d, s.inputs = e :: rest ∧ step s = ({ s with inputs := rest, delay := d } : State).acceptInput e := by
  have completes : ∀ op, step s = runCommand op s → ∃ t, step s = .next t := fun op h => h ▸ runCommand_next op s
  obtain hr | hr := Bool.eq_false_or_eq_true s.inReset
  · left
    cases hi : s.inputs with
    | nil => exact ⟨s, by simp [step, hr, hi]⟩
    | cons e rest => exact ⟨_, step_inReset hr hi⟩
  · cases hi : s.inputs with
    | nil =>
      obtain hp | ⟨op, hp⟩ := s.phase.eq_idle_or_busy
      · exact .inl ⟨s, step_idle_no_input hr hp hi⟩
      · exact .inl (completes op (step_busy_no_input hr hp hi))
    | cons e rest =>
      by_cases before : s.phase = .idle ∨ s.delay ≠ 0
      · obtain ⟨d, hstep⟩ := step_eq_acceptInput hr before hi
        exact .inr ⟨e, rest, d, rfl, hstep⟩
      · obtain ⟨notIdle, due⟩ := not_or.mp before
        obtain ⟨op, hp⟩ := s.phase.eq_idle_or_busy.resolve_left notIdle
        exact .inl (completes op (step_busy_due hr hp (not_not.mp due)))

/-- A step goes on or is the bus error of the access it carries out. -/
theorem step_next_or_busError (s : State) :
    (∃ t, step s = .next t) ∨
    ∃ reason width addr rest, step s = .fault (.busError reason) ∧ portTarget s.cfg width addr = .error reason ∧
      (s.inputs = .read width addr :: rest ∨ ∃ v, s.inputs = .write width addr v :: rest) := by
  obtain goesOn | ⟨e, rest, d, hi, hstep⟩ := step_next_or_acceptInput s
  · exact .inl goesOn
  rw [hstep, hi]
  obtain goesOn | ⟨reason, width, addr, hfault, refused, access⟩ := acceptInput_next_or_refused _ e
  · exact .inl goesOn
  · refine .inr ⟨reason, width, addr, rest, hfault, refused, ?_⟩
    obtain rfl | ⟨v, rfl⟩ := access
    · exact .inl rfl
    · exact .inr ⟨v, rfl⟩

/-- Settles O58: of the two ways a step ends, only the refused access is no next state. -/
theorem stepsStopOnlyAtABusError : Obligations.StepsStopOnlyAtABusError := by
  intro s
  refine ⟨fun t => step_cfg, fun r h => ?fault, fun r h => ?refused⟩ <;>
    obtain ⟨t, hnext⟩ | ⟨reason, width, addr, rest, hfault, refused, access⟩ := step_next_or_busError s
  case fault.inl => cases hnext.symm.trans h
  case fault.inr =>
    cases hfault.symm.trans h
    exact ⟨reason, width, addr, rfl, refused, rest, access⟩
  case refused.inl => cases hnext.symm.trans h
  case refused.inr => cases hfault.symm.trans h

end Sys2Proof.Machine
end
